-- ==== Sys2Proof/Word.lean ====
section
/-! DEFINITION. The bit-vector types of CORE's ports (00_scope.md R6, 10_state.md R25, R26). -/

namespace Sys2Proof

/-- A 16-bit unsigned port value: a calendar field (W_FIELD, R6) or a DOS word (W_DOS, R6). -/
abbrev Word := BitVec 16

/-- The 32-bit date/time value DT32 (W_DT32, R6). -/
abbrev DWord := BitVec 32

/-- The 2-bit operation select (W_OP, R6; 30_encoding.md R60). -/
abbrev OpCode := BitVec 2

/-- The 1-bit error port (10_state.md R26). -/
abbrev ErrBit := BitVec 1

end Sys2Proof
end

