-- ==== Sys2Proof/Config.lean ====
section
/-! DEFINITION. The implementation parameters of 00_scope.md R6. "The model fixes them as constants. None is left
open", so there is no free value here (93_implementation_defined.md lists none either). -/

namespace Sys2Proof.Config

/-- W_DOS: the width of the DOS date word and of the DOS time word. -/
abbrev wDos : Nat := 16

/-- W_DT32: the width of the concatenated value. -/
abbrev wDt32 : Nat := 32

/-- YEAR_BASE: the year that year offset 0 stands for. -/
abbrev yearBase : Nat := 1980

/-- W_YOFF, W_MONTH, W_DAY: the widths of the date word's fields. -/
abbrev wYoff : Nat := 7
abbrev wMonth : Nat := 4
abbrev wDay : Nat := 5

/-- W_HOUR, W_MINUTE, W_SEC2: the widths of the time word's fields. -/
abbrev wHour : Nat := 5
abbrev wMinute : Nat := 6
abbrev wSec2 : Nat := 5

/-- YEAR_MAX: YEAR_BASE + 127, the highest year the 7-bit year offset holds. -/
abbrev yearMax : Nat := 2107

/-- SECOND_GRANULE: seconds per unit of the time word's seconds field. -/
abbrev secondGranule : Nat := 2

/-- W_FIELD: the width of every calendar-field port. -/
abbrev wField : Nat := 16

/-- W_OP: the width of the operation select. -/
abbrev wOp : Nat := 2

/-- The bits of one whole input vector: `op` and the nine 16-bit ports of 10_state.md R25 (no parameter of R6; the sum of
the widths, notes/assumptions/5.md). -/
abbrev wVector : Nat := 146

end Sys2Proof.Config
end

