-- ==== Sys2Proof/Syntax.lean ====
section
/-! DEFINITION. What a transaction carries (10_state.md R25, R29) and the four operations (30_encoding.md R61). -/

namespace Sys2Proof

/-- The seven calendar fields, DateTimeFields (10_state.md R29), each a whole 16-bit unsigned port value (R25). -/
structure DateTimeFields where
  year : Word
  month : Word
  day : Word
  hour : Word
  minute : Word
  second : Word
  ms : Word
  deriving DecidableEq, Repr

/-- One input vector: every input port of 10_state.md R25 at one value, in that rule's order. -/
structure Inputs where
  op : OpCode
  year : Word
  month : Word
  day : Word
  hour : Word
  minute : Word
  second : Word
  ms : Word
  date_i : Word
  time_i : Word
  deriving DecidableEq, Repr

/-- The calendar-field ports of an input vector, read together. -/
def Inputs.fields (v : Inputs) : DateTimeFields :=
  ⟨v.year, v.month, v.day, v.hour, v.minute, v.second, v.ms⟩

/-- The operations of 30_encoding.md R61 with the operands each reads (R67, 10_state.md R25); one constructor per row
of opcode_table.json. Every operand is a whole port value, so every term of this type is an instruction CORE accepts
(R62: no encoding and no port value is illegal). -/
inductive Instr where
  /-- ENC.STRICT, `op` = 00 (40_encode.md R91). -/
  | encStrict (f : DateTimeFields)
  /-- ENC.LOOSE, `op` = 01 (40_encode.md R90). -/
  | encLoose (f : DateTimeFields)
  /-- ENC.RAW, `op` = 10 (40_encode.md R89). -/
  | encRaw (f : DateTimeFields)
  /-- DEC, `op` = 11 (41_decode.md R111). -/
  | dec (date time : Word)
  deriving DecidableEq, Repr

end Sys2Proof
end

