-- ==== Sys2Proof/WellFormed.lean ====
section
/-! DEFINITION. Which terms name a transaction. An `Instr` is well formed by its type (30_encoding.md R62). Two forms
outside CORE can fail to name one: a number that is no input vector, and a line of the assembler syntax of R68, whose
operands a transcriber refuses outside 0..65535 (93_implementation_defined.md I8). -/

namespace Sys2Proof

/-- A number is an input vector exactly when it fits the vector's bits (notes/assumptions/5.md). -/
def vectorFits (w : Nat) : Bool := decide (w < 2 ^ Config.wVector)

/-- The mnemonics of 30_encoding.md R68 and the pseudo-instruction ENC of R69. -/
inductive Mnemonic where
  | enc
  | encStrict
  | encLoose
  | encRaw
  | dec
  deriving DecidableEq, Repr

/-- An operand of R68: "a decimal literal or a `0x` hexadecimal literal", as its digits, the first written first
(notes/assumptions/9.md). -/
inductive Literal where
  | decimal (digits : List (Fin 10))
  | hexadecimal (digits : List (Fin 16))
  deriving DecidableEq, Repr

/-- The number a literal is written for. -/
def Literal.value : Literal → Nat
  | .decimal ds => ds.foldl (fun n d => 10 * n + d.val) 0
  | .hexadecimal ds => ds.foldl (fun n d => 16 * n + d.val) 0

/-- A literal has at least one digit. -/
def Literal.hasDigits : Literal → Bool
  | .decimal ds => !ds.isEmpty
  | .hexadecimal ds => !ds.isEmpty

/-- The operand range of R68: 0..65535. -/
def Literal.inRange (l : Literal) : Bool := decide (l.value ≤ 65535)

/-- One line of the assembler syntax of R68: a mnemonic and its operands in the order of R68. -/
structure AsmLine where
  mnemonic : Mnemonic
  operands : List Literal
  deriving DecidableEq, Repr

/-- How many operands R68 gives a mnemonic. -/
def Mnemonic.arity : Mnemonic → Nat
  | .enc => 7
  | .encStrict => 7
  | .encLoose => 7
  | .encRaw => 7
  | .dec => 2

/-- R68: "Every operand is required." -/
def AsmLine.hasEveryOperand (l : AsmLine) : Bool := l.operands.length == l.mnemonic.arity

/-- R68: every operand given, each a literal with digits and a value 0..65535. -/
def AsmLine.wellFormed (l : AsmLine) : Bool :=
  l.hasEveryOperand && l.operands.all (fun o => o.hasDigits && o.inRange)

end Sys2Proof
end

