-- ==== Sys2Proof/Decode.lean ====
section
/-! DEFINITION. From an input vector to the operation it selects, and back (30_encoding.md R60 to R62, R67 to R69).
Decoding a vector is total, since all four `op` values are assigned (R62). What is no vector is rejected by name. -/

namespace Sys2Proof

/-- Why something names no transaction. -/
inductive DecodeError where
  /-- A number of more bits than an input vector has. -/
  | vectorTooWide
  /-- A line without its mnemonic's operands (R68: "Every operand is required"). -/
  | wrongOperandCount
  /-- A literal without digits. -/
  | emptyLiteral
  /-- An operand outside 0..65535 (R68; 93_implementation_defined.md I8). -/
  | operandOutOfRange
  /-- A text line whose first word is no mnemonic of R68 or R69. -/
  | unknownMnemonic
  /-- A text operand that is no decimal and no `0x` hexadecimal literal (R68). -/
  | notALiteral
  deriving DecidableEq, Repr

/-- The operation map of R61, each operation with the ports it reads (10_state.md R25). -/
def decode (v : Inputs) : Instr :=
  match v.op with
  | 0b00#2 => .encStrict v.fields
  | 0b01#2 => .encLoose v.fields
  | 0b10#2 => .encRaw v.fields
  | 0b11#2 => .dec v.date_i v.time_i

/-- An encode transaction's input vector: the fields on their ports, the DEC ports at 0. -/
def encodeFields (op : OpCode) (f : DateTimeFields) : Inputs :=
  ⟨op, f.year, f.month, f.day, f.hour, f.minute, f.second, f.ms, 0, 0⟩

/-- The input vector that presents an instruction, by R61's map; "unused ports at 0x0000" is 95_test_vectors.md's
convention (DEDUCED, notes/assumptions/7.md). -/
def encode : Instr → Inputs
  | .encStrict f => encodeFields 0b00#2 f
  | .encLoose f => encodeFields 0b01#2 f
  | .encRaw f => encodeFields 0b10#2 f
  | .dec d t => ⟨0b11#2, 0, 0, 0, 0, 0, 0, 0, d, t⟩

/-- An input vector as one number: `op` in bits 1:0 (R60), the ports above it in the order of 10_state.md R25
(DESIGN CHOICE, notes/assumptions/5.md). -/
def Inputs.toNumber (v : Inputs) : Nat :=
  v.op.toNat + v.year.toNat * 2 ^ 2 + v.month.toNat * 2 ^ 18 + v.day.toNat * 2 ^ 34 + v.hour.toNat * 2 ^ 50
    + v.minute.toNat * 2 ^ 66 + v.second.toNat * 2 ^ 82 + v.ms.toNat * 2 ^ 98 + v.date_i.toNat * 2 ^ 114
    + v.time_i.toNat * 2 ^ 130

/-- The input vector a number stands for, each port cut out at its place. -/
def Inputs.ofNumber (w : Nat) : Inputs where
  op := BitVec.ofNat 2 w
  year := BitVec.ofNat 16 (w / 2 ^ 2)
  month := BitVec.ofNat 16 (w / 2 ^ 18)
  day := BitVec.ofNat 16 (w / 2 ^ 34)
  hour := BitVec.ofNat 16 (w / 2 ^ 50)
  minute := BitVec.ofNat 16 (w / 2 ^ 66)
  second := BitVec.ofNat 16 (w / 2 ^ 82)
  ms := BitVec.ofNat 16 (w / 2 ^ 98)
  date_i := BitVec.ofNat 16 (w / 2 ^ 114)
  time_i := BitVec.ofNat 16 (w / 2 ^ 130)

/-- Decoding a number: the instruction its vector selects, or a rejection by name. -/
def decodeNumber (w : Nat) : Except DecodeError Instr :=
  if vectorFits w then .ok (decode (Inputs.ofNumber w)) else .error .vectorTooWide

/-- The number of the vector that presents an instruction. -/
def encodeNumber (i : Instr) : Nat := (encode i).toNumber

/-- The vector whose low `nbits` bits are those of `w` and whose other bits are 0. -/
def tableVector (nbits w : Nat) : Nat := w % 2 ^ nbits

/-- The instruction the decoder reads from a word numbered as opcode_table.json numbers it. -/
def decodeTableWord (nbits w : Nat) : Option Instr :=
  match decodeNumber (tableVector nbits w) with
  | .ok i => some i
  | .error _ => none

/-- One operand's port value (R68). -/
def Literal.toWord (l : Literal) : Except DecodeError Word :=
  if l.hasDigits then
    if l.inRange then .ok (BitVec.ofNat 16 l.value) else .error .operandOutOfRange
  else .error .emptyLiteral

/-- The operands' port values, first to last. -/
def operandWords : List Literal → Except DecodeError (List Word)
  | [] => .ok []
  | l :: ls =>
    match l.toWord, operandWords ls with
    | .ok w, .ok ws => .ok (w :: ws)
    | .error e, _ => .error e
    | .ok _, .error e => .error e

/-- The seven operands of an ENC line in R68's order: year, month, day, hour, minute, second, ms. -/
def fieldsOfOperands : List Word → Except DecodeError DateTimeFields
  | [y, mo, d, h, mi, s, ms] => .ok ⟨y, mo, d, h, mi, s, ms⟩
  | _ => .error .wrongOperandCount

/-- The two operands of a DEC line in R68's order: date, time. -/
def wordsOfOperands : List Word → Except DecodeError (Word × Word)
  | [d, t] => .ok (d, t)
  | _ => .error .wrongOperandCount

/-- The transcriber of R68; `ENC` is `ENC.STRICT` (R69). -/
def transcribe (l : AsmLine) : Except DecodeError Instr :=
  match operandWords l.operands with
  | .error e => .error e
  | .ok ws =>
    match l.mnemonic with
    | .enc => (fieldsOfOperands ws).map .encStrict
    | .encStrict => (fieldsOfOperands ws).map .encStrict
    | .encLoose => (fieldsOfOperands ws).map .encLoose
    | .encRaw => (fieldsOfOperands ws).map .encRaw
    | .dec => (wordsOfOperands ws).map (fun p => .dec p.1 p.2)

end Sys2Proof
end

