-- ==== Sys2Proof/Machine/State.lean ====
section
/-! DEFINITION. CORE holds no architectural state (10_state.md R20): nothing lasts from one transaction to the next.
State is what the spec does give it, the value on every port, and the host's schedule of input vectors (R31), so that
the pipeline's state-passing interface can run it (notes/assumptions/1.md, 2.md). -/

namespace Sys2Proof.Machine

/-- One output vector: every output port of 10_state.md R26 at one value. -/
structure Outputs where
  err : ErrBit
  date_o : Word
  time_o : Word
  dt32_o : DWord
  year_o : Word
  month_o : Word
  day_o : Word
  hour_o : Word
  minute_o : Word
  second_o : Word
  ms_o : Word
  deriving DecidableEq, Repr

/-- Every output port at 0. -/
def Outputs.zero : Outputs := ⟨0, 0, 0, 0, 0, 0, 0, 0, 0, 0, 0⟩

/-- The ports and the host's schedule. `out` is the output vector of the transaction whose input vector is `inp`
(R24); no operation reads `out`, and no operation reads `inp` other than through the instruction decoded from it. -/
structure State where
  /-- The input vector of the transaction being performed, or last performed (R25). -/
  inp : Inputs
  /-- The output vector of the last transaction (R26). -/
  out : Outputs
  /-- The input vectors the host will present next, the first first (R22, R31; notes/assumptions/2.md). -/
  pending : List Inputs
  deriving DecidableEq, Repr

/-- No step faults: "No transaction has any other failure outcome" than InvalidArgument (60_exceptions.md R130), which
is a result and not a trap (R136), and "a model must not add such an outcome" as an internal failure (R135). So the
type has no constructor: nobody raises a fault, which is exact. -/
inductive Fault where
  deriving DecidableEq, Repr

/-- Why a step has no meaning. -/
inductive Refusal where
  /-- An instruction without a meaning in this model. Raised by nobody, since every operation has its meaning; it
  would be safe, a stop where the hardware goes on. -/
  | notModelled (mnemonic : String)
  deriving DecidableEq, Repr

/-- Before the first transaction. The spec gives no port a value then (92_eei_decisions.md D13, 70_reset_and_hazards.md
R150), so every port is 0 and the host has nothing scheduled: DESIGN CHOICE, notes/assumptions/2.md, 3.md and 4.md. -/
def State.reset : State where
  inp := ⟨0, 0, 0, 0, 0, 0, 0, 0, 0, 0⟩
  out := Outputs.zero
  pending := []

end Sys2Proof.Machine
end

