-- ==== Sys2Proof/Machine/Flags.lean ====
section
/-! DEFINITION. The one status indication, `err` (10_state.md R27, 60_exceptions.md R131), and the predicates that decide
it (40_encode.md R87, R88). -/

namespace Sys2Proof.Machine

/-- `err` = 0: no error was raised (60_exceptions.md R131). -/
def errNone : ErrBit := 0

/-- `err` = 1: the cause code of InvalidArgument (60_exceptions.md R131). -/
def errInvalidArgument : ErrBit := 1

/-- The year's two bounds, common to both contracts (40_encode.md R87, R88). -/
def yearInRange (year : Word) : Bool :=
  decide (Config.yearBase ≤ year.toNat) && decide (year.toNat ≤ Config.yearMax)

/-- `Loose(year, month, day)` (40_encode.md R87). -/
def loose (f : DateTimeFields) : Bool :=
  yearInRange f.year && decide (1 ≤ f.month.toNat) && decide (1 ≤ f.day.toNat)

/-- `Strict(year, month, day, hour, minute, second, ms)` (40_encode.md R88). -/
def strict (f : DateTimeFields) : Bool :=
  yearInRange f.year
    && decide (1 ≤ f.month.toNat) && decide (f.month.toNat ≤ 12)
    && decide (1 ≤ f.day.toNat) && decide (f.day.toNat ≤ 31)
    && decide (f.hour.toNat ≤ 23) && decide (f.minute.toNat ≤ 59) && decide (f.second.toNat ≤ 59)
    && decide (f.ms.toNat ≤ 999)

end Sys2Proof.Machine
end

