-- ==== Sys2Proof/Machine/Operands.lean ====
section
/-! DEFINITION. Operand forms: how a port value becomes the value that enters a DOS word (30_encoding.md R67,
40_encode.md R81, R82), and how a field is cut out of a DOS word (30_encoding.md R63, R64, 41_decode.md R110). Arithmetic
is on unbounded integers until a rule truncates it (00_scope.md R8). -/

namespace Sys2Proof.Machine

/-- `trunc16(v)` is `v mod 2^16` (00_scope.md R8). -/
def trunc16 (v : Nat) : Word := BitVec.ofNat 16 v

/-- `zext_16(v)` widens `v` with zero bits (00_scope.md R9); every value it is given fits. -/
def zext16 (v : Nat) : Word := BitVec.ofNat 16 v

/-- `(year - 1980) mod 2^16` (40_encode.md R80, R81). -/
def yearOffset (year : Word) : Nat := (((year.toNat : Int) - (Config.yearBase : Int)) % 2 ^ 16).toNat

/-- `second / 2`, a floor (40_encode.md R82). -/
def halfSecond (second : Word) : Nat := second.toNat / Config.secondGranule

/-- `date[15:9]` (41_decode.md R110: no mask is needed). -/
def yoffField (date : Word) : Nat := date.toNat >>> 9

/-- `date[8:5]`. -/
def monField (date : Word) : Nat := (date.toNat >>> 5) &&& 0xF

/-- `date[4:0]`. -/
def dayField (date : Word) : Nat := date.toNat &&& 0x1F

/-- `time[15:11]` (41_decode.md R110: no mask is needed). -/
def hourField (time : Word) : Nat := time.toNat >>> 11

/-- `time[10:5]`. -/
def minField (time : Word) : Nat := (time.toNat >>> 5) &&& 0x3F

/-- `time[4:0]`. -/
def sec2Field (time : Word) : Nat := time.toNat &&& 0x1F

end Sys2Proof.Machine
end

