-- ==== Sys2Proof/Machine/Ops.lean ====
section
/-! DEFINITION. The shared operations: the packer and unpacker datapaths, driving the output ports, raising
InvalidArgument, and taking the host's next input vector. -/

namespace Sys2Proof.Machine

/-- The date word of `Pack` (40_encode.md R80, R84). -/
def packDate (year month day : Word) : Word :=
  trunc16 ((yearOffset year <<< 9) ||| (month.toNat <<< 5) ||| day.toNat)

/-- The time word of `Pack` (40_encode.md R80, R84). -/
def packTime (hour minute second : Word) : Word :=
  trunc16 ((hour.toNat <<< 11) ||| (minute.toNat <<< 5) ||| halfSecond second)

/-- `(date << 16) | time` (20_memory.md R43, 40_encode.md R85). -/
def concatWords (date time : Word) : DWord :=
  BitVec.ofNat 32 ((date.toNat <<< 16) ||| time.toNat)

/-- The output vector of an encode transaction that does not raise: the words, every decode port at 0
(40_encode.md R89, 10_state.md R28). -/
def wordsOut (date time : Word) : Outputs where
  err := errNone
  date_o := date
  time_o := time
  dt32_o := concatWords date time
  year_o := 0
  month_o := 0
  day_o := 0
  hour_o := 0
  minute_o := 0
  second_o := 0
  ms_o := 0

/-- The output vector of `Unpack` (41_decode.md R110, R111): the seven fields, every word port at 0. -/
def unpackOut (date time : Word) : Outputs where
  err := errNone
  date_o := 0
  time_o := 0
  dt32_o := 0
  year_o := zext16 (Config.yearBase + yoffField date)
  month_o := zext16 (monField date)
  day_o := zext16 (dayField date)
  hour_o := zext16 (hourField time)
  minute_o := zext16 (minField time)
  second_o := zext16 (sec2Field time * Config.secondGranule)
  ms_o := 0

/-- The output vector of a transaction that raises InvalidArgument: `err` and nothing else (60_exceptions.md R132). -/
def invalidArgumentOut : Outputs where
  err := errInvalidArgument
  date_o := 0
  time_o := 0
  dt32_o := 0
  year_o := 0
  month_o := 0
  day_o := 0
  hour_o := 0
  minute_o := 0
  second_o := 0
  ms_o := 0

/-- End the transaction with an output vector: every output port is driven, nothing else changes (10_state.md R24). -/
def State.drive (s : State) (o : Outputs) : State := { s with out := o }

/-- `raise InvalidArgument()` (60_exceptions.md R132). It saves no state, changes no mode and transfers control nowhere
(R136), and there is nothing to return from (R137), so the whole of taking it is its output vector. -/
def raiseInvalidArgument (s : State) : State := s.drive invalidArgumentOut

/-- The encode datapath with no checks (40_encode.md R89). -/
def driveWords (f : DateTimeFields) (s : State) : State :=
  s.drive (wordsOut (packDate f.year f.month f.day) (packTime f.hour f.minute f.second))

/-- Encode under a contract: raise InvalidArgument where its predicate fails, else "behave as ENC.RAW"
(40_encode.md R90, R91). -/
def encodeUnder (contract : DateTimeFields → Bool) (f : DateTimeFields) (s : State) : State :=
  if contract f then driveWords f s else raiseInvalidArgument s

/-- The host presents its next input vector; a host with none scheduled leaves the vector that stands on the ports
(10_state.md R24, R31; DESIGN CHOICE, notes/assumptions/2.md). -/
def State.present (s : State) : State :=
  match s.pending with
  | [] => s
  | v :: rest => { s with inp := v, pending := rest }

/-- The operation the presented vector carries (10_state.md R22: "Each transaction carries its own operation on the `op`
input"; there is no fetch from a memory). -/
def State.selected (s : State) : Instr := decode s.inp

/-- Put a vector first in the host's schedule, so that the next step presents it. -/
def State.schedule (s : State) (v : Inputs) : State := { s with pending := v :: s.pending }

end Sys2Proof.Machine
end

