-- ==== Sys2Proof/Machine/DecodeFamily.lean ====
section
/-! DEFINITION. The decode family's meaning (41_decode.md R111). -/

namespace Sys2Proof.Machine

/-- DEC (41_decode.md R111): the unpacker. Any two words decode, the result is not validated, and it never raises. -/
def execDec (date time : Word) (s : State) : Host.Outcome State Fault Refusal :=
  .next (s.drive (unpackOut date time))

end Sys2Proof.Machine
end

