-- ==== Sys2Proof/Machine/EncodeFamily.lean ====
section
/-! DEFINITION. The encode family's meanings (40_encode.md R89 to R91). -/

namespace Sys2Proof.Machine

/-- ENC.STRICT (40_encode.md R91): InvalidArgument unless `Strict` holds, else as ENC.RAW. -/
def execEncStrict (f : DateTimeFields) (s : State) : Host.Outcome State Fault Refusal :=
  .next (encodeUnder strict f s)

/-- ENC.LOOSE (40_encode.md R90): InvalidArgument unless `Loose` holds, else as ENC.RAW. -/
def execEncLoose (f : DateTimeFields) (s : State) : Host.Outcome State Fault Refusal :=
  .next (encodeUnder loose f s)

/-- ENC.RAW (40_encode.md R89): the packer, no checks, never an error. -/
def execEncRaw (f : DateTimeFields) (s : State) : Host.Outcome State Fault Refusal :=
  .next (driveWords f s)

end Sys2Proof.Machine
end

