-- ==== Sys2Proof/Machine/Dispatch.lean ====
section
/-! DEFINITION. One arm per operation of 30_encoding.md R61. -/

namespace Sys2Proof.Machine

def exec (i : Instr) (s : State) : Host.Outcome State Fault Refusal :=
  match i with
  | .encStrict f => Sys2Proof.Machine.execEncStrict f s
  | .encLoose f => Sys2Proof.Machine.execEncLoose f s
  | .encRaw f => Sys2Proof.Machine.execEncRaw f s
  | .dec d t => Sys2Proof.Machine.execDec d t s

end Sys2Proof.Machine
end

