-- ==== Sys2Proof/Machine/Step.lean ====
section
/-! DEFINITION. One step is one transaction (10_state.md R24): the host presents an input vector, and the operation it
selects drives every output port. -/

namespace Sys2Proof.Machine

/-- One whole transaction, atomic (R24). -/
def step (s : State) : Host.Outcome State Fault Refusal :=
  exec s.present.selected s.present

/-- The state whose next transaction is the one a table word stands for: its vector goes first in the host's schedule,
which is where a step takes its vector from (notes/assumptions/6.md). -/
def State.withFetchWord (s : State) (nbits w : Nat) : State :=
  s.schedule (Inputs.ofNumber (tableVector nbits w))

end Sys2Proof.Machine
end

