-- ==== Sys2Proof/Machine/Instances.lean ====
section
/-! DEFINITION. Any number of CORE instances in any interleaving (60_exceptions.md R142, 20_memory.md R47). An instance
has no identifier (R142), so its place in the list is the model's (notes/assumptions/8.md). -/

namespace Sys2Proof.Machine

/-- The instance at place `k` performs one transaction; a place that holds no instance does nothing. -/
def stepInstance : Nat → List State → Host.Outcome (List State) Fault Refusal
  | _, [] => .next []
  | 0, s :: rest =>
    match step s with
    | .next t => .next (t :: rest)
    | .fault r => .fault r
    | .refused r => .refused r
  | k + 1, s :: rest =>
    match stepInstance k rest with
    | .next rest' => .next (s :: rest')
    | .fault r => .fault r
    | .refused r => .refused r

/-- One interleaving: the instances take their turns in the order given. -/
def runInterleaved : List Nat → List State → Host.Outcome (List State) Fault Refusal
  | [], sys => .next sys
  | k :: turns, sys =>
    match stepInstance k sys with
    | .next sys' => runInterleaved turns sys'
    | .fault r => .fault r
    | .refused r => .refused r

end Sys2Proof.Machine
end

