-- ==== Sys2Proof/Machine/Notation.lean ====
section
/-! DEFINITION. The text of 30_encoding.md R68: operation lines, their encodings and their results, as characters, and
the reading of an operation line (notes/assumptions/9.md for what R68 leaves open). CORE itself reads no text
(00_scope.md R5). -/

namespace Sys2Proof

/-- A digit's character; hexadecimal digits in capitals, as 95_test_vectors.md writes them. -/
def digitChar (d : Nat) : Char := if d < 10 then Char.ofNat (48 + d) else Char.ofNat (55 + d)

/-- The value of a digit's character, capital or small. -/
def digitValue (c : Char) : Option Nat :=
  if 48 ≤ c.toNat ∧ c.toNat ≤ 57 then some (c.toNat - 48)
  else if 65 ≤ c.toNat ∧ c.toNat ≤ 70 then some (c.toNat - 55)
  else if 97 ≤ c.toNat ∧ c.toNat ≤ 102 then some (c.toNat - 87)
  else none

/-- The last `n` digits of a value in a base, the first written first. -/
def fixedDigits (base : Nat) [NeZero base] : Nat → Nat → List (Fin base)
  | 0, _ => []
  | n + 1, v => fixedDigits base n (v / base) ++ [Fin.ofNat base v]

/-- A value's digits in a base without leading zeros, at most `n` of them. -/
def shortDigits (base : Nat) [NeZero base] : Nat → Nat → List (Fin base)
  | 0, _ => []
  | n + 1, v => if v < base then [Fin.ofNat base v] else shortDigits base n (v / base) ++ [Fin.ofNat base v]

/-- A port value as a decimal literal: five digits hold 0..65535. -/
def decimalLiteral (w : Word) : Literal := .decimal (shortDigits 10 5 w.toNat)

/-- A port value as a hexadecimal literal of four digits. -/
def hexLiteral (w : Word) : Literal := .hexadecimal (fixedDigits 16 4 w.toNat)

/-- The mnemonics as R68 and R69 spell them. -/
def Mnemonic.name : Mnemonic → List Char
  | .enc => "ENC".toList
  | .encStrict => "ENC.STRICT".toList
  | .encLoose => "ENC.LOOSE".toList
  | .encRaw => "ENC.RAW".toList
  | .dec => "DEC".toList

/-- A literal as written. -/
def Literal.text : Literal → List Char
  | .decimal ds => ds.map (fun d => digitChar d.val)
  | .hexadecimal ds => '0' :: 'x' :: ds.map (fun d => digitChar d.val)

/-- Operands, separated as R68 separates them. -/
def operandsText : List Literal → List Char
  | [] => []
  | [l] => l.text
  | l :: ls => l.text ++ ',' :: ' ' :: operandsText ls

/-- A line of R68. -/
def AsmLine.text (l : AsmLine) : List Char := l.mnemonic.name ++ ' ' :: operandsText l.operands

/-- The operands of an ENC line, decimal as 95_test_vectors.md writes them. -/
def fieldOperands (f : DateTimeFields) : List Literal :=
  [f.year, f.month, f.day, f.hour, f.minute, f.second, f.ms].map decimalLiteral

/-- The line that names an instruction, ENC operands in decimal and DEC operands in hexadecimal. -/
def Instr.line : Instr → AsmLine
  | .encStrict f => ⟨.encStrict, fieldOperands f⟩
  | .encLoose f => ⟨.encLoose, fieldOperands f⟩
  | .encRaw f => ⟨.encRaw, fieldOperands f⟩
  | .dec d t => ⟨.dec, [hexLiteral d, hexLiteral t]⟩

/-- The mnemonic a word spells. -/
def Mnemonic.ofName (cs : List Char) : Option Mnemonic :=
  [Mnemonic.enc, .encStrict, .encLoose, .encRaw, .dec].find? (fun m => m.name == cs)

/-- The digits that characters spell in a base. -/
def digitsOfChars (base : Nat) : List Char → Except DecodeError (List (Fin base))
  | [] => .ok []
  | c :: cs =>
    match digitValue c, digitsOfChars base cs with
    | some v, .ok ds => if h : v < base then .ok (⟨v, h⟩ :: ds) else .error .notALiteral
    | some _, .error e => .error e
    | none, _ => .error .notALiteral

/-- A literal read from its characters: after `0x` hexadecimal, else decimal. -/
def literalOfChars : List Char → Except DecodeError Literal
  | '0' :: 'x' :: cs => (digitsOfChars 16 cs).map .hexadecimal
  | cs => (digitsOfChars 10 cs).map .decimal

/-- Characters cut at every comma. -/
def splitAtCommas : List Char → List (List Char)
  | [] => [[]]
  | c :: cs =>
    match c == ',', splitAtCommas cs with
    | true, parts => [] :: parts
    | false, [] => [[c]]
    | false, p :: parts => (c :: p) :: parts

/-- Characters without the spaces at either end. -/
def trimSpaces (cs : List Char) : List Char :=
  ((cs.dropWhile (· == ' ')).reverse.dropWhile (· == ' ')).reverse

/-- Every operand read, or the first one that cannot be. -/
def literalsOfChars : List (List Char) → Except DecodeError (List Literal)
  | [] => .ok []
  | p :: ps =>
    match literalOfChars (trimSpaces p), literalsOfChars ps with
    | .ok l, .ok ls => .ok (l :: ls)
    | .error e, _ => .error e
    | .ok _, .error e => .error e

/-- A line read from its characters. -/
def lineOfChars (cs : List Char) : Except DecodeError AsmLine :=
  match Mnemonic.ofName (cs.takeWhile (· != ' ')) with
  | none => .error .unknownMnemonic
  | some m =>
    match trimSpaces (cs.dropWhile (· != ' ')) with
    | [] => .ok ⟨m, []⟩
    | rest => (literalsOfChars (splitAtCommas rest)).map (fun ls => ⟨m, ls⟩)

/-- From a line's characters to the instruction it names. -/
def assemble (cs : List Char) : Except DecodeError Instr :=
  match lineOfChars cs with
  | .ok l => transcribe l
  | .error e => .error e

/-- `name=0x....` for a 16-bit port. -/
def portText (name : List Char) (w : Word) : List Char := name ++ '=' :: (hexLiteral w).text

/-- A line's encoding: the two bits of `op`, then the ports in the order of 10_state.md R25. -/
def Inputs.text (v : Inputs) : List Char :=
  "op=".toList ++ (fixedDigits 2 2 v.op.toNat).map (fun d => digitChar d.val)
    ++ portText " year".toList v.year ++ portText " month".toList v.month ++ portText " day".toList v.day
    ++ portText " hour".toList v.hour ++ portText " minute".toList v.minute ++ portText " second".toList v.second
    ++ portText " ms".toList v.ms ++ portText " date_i".toList v.date_i ++ portText " time_i".toList v.time_i

/-- `name=<decimal>` for a decoded field. -/
def fieldText (name : List Char) (w : Word) : List Char := name ++ '=' :: (decimalLiteral w).text

/-- An ENC result. -/
def encResultText (o : Machine.Outputs) : List Char :=
  "-> err=".toList ++ digitChar o.err.toNat :: portText " date".toList o.date_o ++ portText " time".toList o.time_o
    ++ " dt32=0x".toList ++ (fixedDigits 16 8 o.dt32_o.toNat).map (fun d => digitChar d.val)

/-- A DEC result. -/
def decResultText (o : Machine.Outputs) : List Char :=
  "-> err=".toList ++ digitChar o.err.toNat :: fieldText " y".toList o.year_o ++ fieldText " mo".toList o.month_o
    ++ fieldText " d".toList o.day_o ++ fieldText " h".toList o.hour_o ++ fieldText " mi".toList o.minute_o
    ++ fieldText " s".toList o.second_o ++ fieldText " ms".toList o.ms_o

/-- An instruction's result, in the form R68 gives its family. -/
def resultText (i : Instr) (o : Machine.Outputs) : List Char :=
  match i with
  | .encStrict _ => encResultText o
  | .encLoose _ => encResultText o
  | .encRaw _ => encResultText o
  | .dec _ _ => decResultText o

end Sys2Proof
end

