-- ==== Sys2Proof/Safety.lean ====
section
/-! DEFINITION. What claims say about a run: which fields a contract accepts, when packing loses nothing, and which
output vectors CORE can show. Written out in the spec's numbers, apart from the machine's own definitions. -/

namespace Sys2Proof

/-- Every field in its natural range (10_state.md R29): what `Strict` checks (40_encode.md R88). -/
abbrev DateTimeFields.Natural (f : DateTimeFields) : Prop :=
  1980 ≤ f.year.toNat ∧ f.year.toNat ≤ 2107 ∧ 1 ≤ f.month.toNat ∧ f.month.toNat ≤ 12
    ∧ 1 ≤ f.day.toNat ∧ f.day.toNat ≤ 31 ∧ f.hour.toNat ≤ 23 ∧ f.minute.toNat ≤ 59
    ∧ f.second.toNat ≤ 59 ∧ f.ms.toNat ≤ 999

/-- What `Loose` checks (40_encode.md R87). -/
abbrev DateTimeFields.LooselyValid (f : DateTimeFields) : Prop :=
  1980 ≤ f.year.toNat ∧ f.year.toNat ≤ 2107 ∧ 1 ≤ f.month.toNat ∧ 1 ≤ f.day.toNat

/-- Every field fits its bit field of the two DOS words (30_encoding.md R63, R64), so that nothing aliases and nothing
is dropped (40_encode.md R86). -/
abbrev DateTimeFields.FitsBitFields (f : DateTimeFields) : Prop :=
  1980 ≤ f.year.toNat ∧ f.year.toNat ≤ 2107 ∧ f.month.toNat < 16 ∧ f.day.toNat < 32
    ∧ f.hour.toNat < 32 ∧ f.minute.toNat < 64 ∧ f.second.toNat < 64

namespace Machine

/-- Every calendar-field output port is 0. -/
abbrev Outputs.FieldsZero (o : Outputs) : Prop :=
  o.year_o = 0 ∧ o.month_o = 0 ∧ o.day_o = 0 ∧ o.hour_o = 0 ∧ o.minute_o = 0 ∧ o.second_o = 0 ∧ o.ms_o = 0

/-- Every word output port is 0. -/
abbrev Outputs.WordsZero (o : Outputs) : Prop :=
  o.date_o = 0 ∧ o.time_o = 0 ∧ o.dt32_o = 0

/-- The ranges of decoded values (41_decode.md R112). -/
abbrev Outputs.DecodedRanges (o : Outputs) : Prop :=
  1980 ≤ o.year_o.toNat ∧ o.year_o.toNat ≤ 2107 ∧ o.month_o.toNat ≤ 15 ∧ o.day_o.toNat ≤ 31
    ∧ o.hour_o.toNat ≤ 31 ∧ o.minute_o.toNat ≤ 63 ∧ o.second_o.toNat ≤ 62 ∧ o.second_o.toNat % 2 = 0
    ∧ o.ms_o = 0

/-- An output vector CORE can show: the 32-bit value is the two words (20_memory.md R43), an error shows no data
(60_exceptions.md R132), and a vector shows words or decoded values in their ranges, never both (10_state.md R28,
41_decode.md R112). -/
abbrev Outputs.Legal (o : Outputs) : Prop :=
  o.dt32_o = o.date_o ++ o.time_o
    ∧ (o.err = 1 → o.WordsZero ∧ o.FieldsZero)
    ∧ (o.FieldsZero ∨ (o.WordsZero ∧ o.DecodedRanges))

/-- The seven decode ports of an output vector, as fields to encode again. -/
def Outputs.fields (o : Outputs) : DateTimeFields :=
  ⟨o.year_o, o.month_o, o.day_o, o.hour_o, o.minute_o, o.second_o, o.ms_o⟩

/-- ENC.STRICT accepts what DEC makes of a word pair (41_decode.md R115). -/
def strictAcceptsDecoded (date time : Word) : Bool :=
  match exec (.dec date time) State.reset with
  | .fault _ => false
  | .refused _ => false
  | .next t =>
    match exec (.encStrict t.out.fields) t with
    | .fault _ => false
    | .refused _ => false
    | .next u => u.out.err == 0

end Machine

end Sys2Proof
end

