-- ==== Sys2Proof/Certificates/Slice0/Obligations.lean ====
section
/-! DEFINITION. The statements for the provers. Each docstring names the rules of spec/ it formalises. After a step to
`t`, `t.inp` is the input vector of the transaction performed and `t.out` its output vector (notes/assumptions/1.md). -/

open Sys2Proof Sys2Proof.Machine

/-! ## The transaction model -/

/-- A step presents the host's next vector, or keeps the one on the ports when the host has none scheduled, and is
exactly `exec` of the instruction that vector decodes to. Rests on 10_state.md R22 and on the model's schedule
(notes/assumptions/2.md). -/
def Obligations.StepRunsTheDecodedInstruction : Prop :=
  ∀ (s : State) (i : Instr),
    (∀ v rest, s.pending = v :: rest → decode v = i → step s = exec i { s with inp := v, pending := rest })
    ∧ (s.pending = [] → decode s.inp = i → step s = exec i s)

/-- 10_state.md R24: a transaction always answers, and its output vector is a function of its input vector alone. -/
def Obligations.OutputVectorIsATotalFunctionOfTheInputVector : Prop :=
  ∃ F : Inputs → Outputs, ∀ s : State, ∃ t, step s = .next t ∧ t.out = F t.inp

/-- 30_encoding.md R61: the operation map, with the operands of R67. -/
def Obligations.OperationSelectMap : Prop :=
  ∀ v : Inputs,
    (v.op = 0b00#2 → decode v = .encStrict ⟨v.year, v.month, v.day, v.hour, v.minute, v.second, v.ms⟩)
    ∧ (v.op = 0b01#2 → decode v = .encLoose ⟨v.year, v.month, v.day, v.hour, v.minute, v.second, v.ms⟩)
    ∧ (v.op = 0b10#2 → decode v = .encRaw ⟨v.year, v.month, v.day, v.hour, v.minute, v.second, v.ms⟩)
    ∧ (v.op = 0b11#2 → decode v = .dec v.date_i v.time_i)

/-- What every instruction leaves alone (10_state.md R20, R24): the input ports and the host's schedule. Only the output
ports change. -/
def Obligations.InstructionsChangeOnlyTheOutputPorts : Prop :=
  ∀ (i : Instr) (s : State), ∃ o : Outputs, exec i s = .next { s with out := o }

/-- 10_state.md R25: a port the selected operation does not read has no effect on any output. ENC.RAW and ENC.LOOSE do
not read `ms`, no ENC reads `date_i` or `time_i`, and DEC reads nothing else. -/
def Obligations.UnreadPortsHaveNoEffect : Prop :=
  ∀ (s s' : State) (v v' : Inputs) (rest rest' : List Inputs),
    s.pending = v :: rest → s'.pending = v' :: rest' → v.op = v'.op →
    (v.op ≠ 0b11#2 → v.year = v'.year ∧ v.month = v'.month ∧ v.day = v'.day ∧ v.hour = v'.hour
      ∧ v.minute = v'.minute ∧ v.second = v'.second) →
    (v.op = 0b00#2 → v.ms = v'.ms) →
    (v.op = 0b11#2 → v.date_i = v'.date_i ∧ v.time_i = v'.time_i) →
    ∃ t t', step s = .next t ∧ step s' = .next t' ∧ t.out = t'.out

/-- 10_state.md R28: output ports the operation does not write are 0, and an error shows no data. -/
def Obligations.UnwrittenOutputPortsAreZero : Prop :=
  ∀ s : State, ∃ t, step s = .next t
    ∧ (t.inp.op ≠ 0b11#2 → t.out.year_o = 0 ∧ t.out.month_o = 0 ∧ t.out.day_o = 0 ∧ t.out.hour_o = 0
      ∧ t.out.minute_o = 0 ∧ t.out.second_o = 0 ∧ t.out.ms_o = 0)
    ∧ (t.inp.op = 0b11#2 → t.out.date_o = 0 ∧ t.out.time_o = 0 ∧ t.out.dt32_o = 0)
    ∧ (t.out.err = 1 → t.out = ⟨1, 0, 0, 0, 0, 0, 0, 0, 0, 0, 0⟩)

/-- 20_memory.md R43 (and 40_encode.md R85): in every transaction the 32-bit value is the date word above the time
word. -/
def Obligations.DateWordAboveTimeWordInDt32 : Prop :=
  ∀ s : State, ∃ t, step s = .next t
    ∧ t.out.dt32_o.toNat = (t.out.date_o.toNat <<< 16) ||| t.out.time_o.toNat
    ∧ t.out.dt32_o = t.out.date_o ++ t.out.time_o
    ∧ t.out.dt32_o.extractLsb' 16 16 = t.out.date_o ∧ t.out.dt32_o.extractLsb' 0 16 = t.out.time_o

/-- 20_memory.md R46: presenting a transaction's vector again gives the same output vector. -/
def Obligations.RepeatingAVectorRepeatsItsOutputs : Prop :=
  ∀ s t : State, step s = .next t →
    ∃ u, step { t with pending := t.inp :: t.pending } = .next u ∧ u.out = t.out ∧ u.inp = t.inp

/-- 20_memory.md R47, 60_exceptions.md R137: after any run of transactions, errors among them, from any state, the output
vector is the one its own input vector gives as the first transaction after reset. -/
def Obligations.NoTransactionObservesAnother : Prop :=
  ∀ (s : State) (earlier : List Inputs) (v : Inputs) (later : List Inputs),
    ∃ t u, Sys2Proof.core.run (earlier.length + 1) { s with pending := earlier ++ v :: later } = .next t
      ∧ step { State.reset with pending := [v] } = .next u
      ∧ t.out = u.out ∧ t.inp = v ∧ t.pending = later

/-- 70_reset_and_hazards.md R151: the first transaction after reset behaves like every other. -/
def Obligations.FirstTransactionAfterResetIsLikeEveryOther : Prop :=
  ∀ (s : State) (v : Inputs) (rest rest' : List Inputs),
    ∃ t u, step { State.reset with pending := v :: rest } = .next t
      ∧ step { s with pending := v :: rest' } = .next u ∧ t.out = u.out ∧ t.inp = u.inp

/-- 60_exceptions.md R142: in any interleaving of any number of instances, each instance ends as if it had taken its own
turns alone (notes/assumptions/8.md for the list of instances). -/
def Obligations.InstancesInAnyInterleavingShareNothing : Prop :=
  ∀ (turns : List Nat) (sys : List State),
    ∃ sys', runInterleaved turns sys = .next sys' ∧ sys'.length = sys.length
      ∧ ∀ (k : Nat) (s : State), sys[k]? = some s →
          ∃ t, sys'[k]? = some t ∧ Sys2Proof.core.run (turns.count k) s = .next t

/-- The output ports always show a legal vector: every step keeps it (10_state.md R28, 20_memory.md R43, 41_decode.md R112,
60_exceptions.md R132). -/
def Obligations.StepKeepsTheOutputVectorLegal : Prop :=
  ∀ s : State, s.out.Legal → ∃ t, step s = .next t ∧ t.out.Legal

/-- The output ports of the reset state show a legal vector. The reset values are the model's choice
(notes/assumptions/4.md). -/
def Obligations.ResetOutputVectorIsLegal : Prop :=
  State.reset.out.Legal

/-! ## Errors -/

/-- 60_exceptions.md R133: which operations raise InvalidArgument, and when. -/
def Obligations.ErrIsRaisedExactlyWhenTheContractFails : Prop :=
  ∀ s : State, ∃ t, step s = .next t
    ∧ (t.out.err = 1 ↔
        (t.inp.op = 0b00#2 ∧ ¬ t.inp.fields.Natural)
        ∨ (t.inp.op = 0b01#2 ∧ ¬ t.inp.fields.LooselyValid))

/-- 60_exceptions.md R132, R134: a raise ends the transaction with `err` = 1 and every data output 0, whichever fields
failed and however many. -/
def Obligations.InvalidArgumentShowsErrAndNoData : Prop :=
  ∀ (f : DateTimeFields) (s : State),
    (¬ f.Natural → exec (.encStrict f) s = .next { s with out := ⟨1, 0, 0, 0, 0, 0, 0, 0, 0, 0, 0⟩ })
    ∧ (¬ f.LooselyValid → exec (.encLoose f) s = .next { s with out := ⟨1, 0, 0, 0, 0, 0, 0, 0, 0, 0, 0⟩ })

/-! ## The encode family -/

/-- 40_encode.md R80, R89: ENC.RAW packs any fields, without an error and without reading `ms`, and the corner cases R89
lists. `(year + 63556) mod 65536` is `(year - 1980) mod 2^16`. -/
def Obligations.EncRawPacksAnyFields : Prop :=
  ∀ (year month day hour minute second ms : Word) (s : State),
    exec (.encRaw ⟨year, month, day, hour, minute, second, ms⟩) s = .next { s with out :=
      { err := 0
        date_o := BitVec.ofNat 16 ((((year.toNat + 63556) % 65536) <<< 9) ||| (month.toNat <<< 5) ||| day.toNat)
        time_o := BitVec.ofNat 16 ((hour.toNat <<< 11) ||| (minute.toNat <<< 5) ||| (second.toNat / 2))
        dt32_o :=
          BitVec.ofNat 16 ((((year.toNat + 63556) % 65536) <<< 9) ||| (month.toNat <<< 5) ||| day.toNat)
            ++ BitVec.ofNat 16 ((hour.toNat <<< 11) ||| (minute.toNat <<< 5) ||| (second.toNat / 2))
        year_o := 0, month_o := 0, day_o := 0, hour_o := 0, minute_o := 0, second_o := 0, ms_o := 0 } }
    ∧ (∀ year' : Word, year'.toNat % 128 = year.toNat % 128 →
        exec (.encRaw ⟨year', month, day, hour, minute, second, ms⟩) s
          = exec (.encRaw ⟨year, month, day, hour, minute, second, ms⟩) s)
    ∧ (∀ second' : Word, second'.toNat / 2 = second.toNat / 2 →
        exec (.encRaw ⟨year, month, day, hour, minute, second', ms⟩) s
          = exec (.encRaw ⟨year, month, day, hour, minute, second, ms⟩) s)
    ∧ (∀ ms' : Word, exec (.encRaw ⟨year, month, day, hour, minute, second, ms'⟩) s
          = exec (.encRaw ⟨year, month, day, hour, minute, second, ms⟩) s)
    ∧ exec (.encRaw ⟨0, 0, 0, 0, 0, 0, 0⟩) s
        = .next { s with out := ⟨0, 0x8800, 0, 0x88000000, 0, 0, 0, 0, 0, 0, 0⟩ }
    ∧ exec (.encRaw ⟨0xFFFF, 0xFFFF, 0xFFFF, 0xFFFF, 0xFFFF, 0xFFFF, 0xFFFF⟩) s
        = .next { s with out := ⟨0, 0xFFFF, 0xFFFF, 0xFFFFFFFF, 0, 0, 0, 0, 0, 0, 0⟩ }

/-- 40_encode.md R87, R90: ENC.LOOSE checks the year's two bounds, month >= 1 and day >= 1 and nothing else, and packs as
ENC.RAW does. The year offset never wraps. -/
def Obligations.EncLoosePacksWhatItAccepts : Prop :=
  ∀ (year month day hour minute second ms : Word) (s : State),
    (1980 ≤ year.toNat ∧ year.toNat ≤ 2107 ∧ 1 ≤ month.toNat ∧ 1 ≤ day.toNat →
      exec (.encLoose ⟨year, month, day, hour, minute, second, ms⟩) s = .next { s with out :=
        { err := 0
          date_o := BitVec.ofNat 16 (((year.toNat - 1980) <<< 9) ||| (month.toNat <<< 5) ||| day.toNat)
          time_o := BitVec.ofNat 16 ((hour.toNat <<< 11) ||| (minute.toNat <<< 5) ||| (second.toNat / 2))
          dt32_o :=
            BitVec.ofNat 16 (((year.toNat - 1980) <<< 9) ||| (month.toNat <<< 5) ||| day.toNat)
              ++ BitVec.ofNat 16 ((hour.toNat <<< 11) ||| (minute.toNat <<< 5) ||| (second.toNat / 2))
          year_o := 0, month_o := 0, day_o := 0, hour_o := 0, minute_o := 0, second_o := 0, ms_o := 0 } }
      ∧ exec (.encLoose ⟨year, month, day, hour, minute, second, ms⟩) s
          = exec (.encRaw ⟨year, month, day, hour, minute, second, ms⟩) s)
    ∧ (¬ (1980 ≤ year.toNat ∧ year.toNat ≤ 2107 ∧ 1 ≤ month.toNat ∧ 1 ≤ day.toNat) →
      exec (.encLoose ⟨year, month, day, hour, minute, second, ms⟩) s
        = .next { s with out := ⟨1, 0, 0, 0, 0, 0, 0, 0, 0, 0, 0⟩ })

/-- 40_encode.md R88, R91: ENC.STRICT checks every field. When it does not raise, no field aliases and nothing is
truncated, so the words are plain sums, and the result is ENC.RAW's. -/
def Obligations.EncStrictPacksNaturalFieldsExactly : Prop :=
  ∀ (year month day hour minute second ms : Word) (s : State),
    (((1980 ≤ year.toNat ∧ year.toNat ≤ 2107) ∧ (1 ≤ month.toNat ∧ month.toNat ≤ 12)
        ∧ (1 ≤ day.toNat ∧ day.toNat ≤ 31) ∧ hour.toNat ≤ 23 ∧ minute.toNat ≤ 59 ∧ second.toNat ≤ 59
        ∧ ms.toNat ≤ 999) →
      exec (.encStrict ⟨year, month, day, hour, minute, second, ms⟩) s = .next { s with out :=
        { err := 0
          date_o := BitVec.ofNat 16 ((year.toNat - 1980) * 512 + month.toNat * 32 + day.toNat)
          time_o := BitVec.ofNat 16 (hour.toNat * 2048 + minute.toNat * 32 + second.toNat / 2)
          dt32_o := BitVec.ofNat 32 (((year.toNat - 1980) * 512 + month.toNat * 32 + day.toNat) * 65536
            + (hour.toNat * 2048 + minute.toNat * 32 + second.toNat / 2))
          year_o := 0, month_o := 0, day_o := 0, hour_o := 0, minute_o := 0, second_o := 0, ms_o := 0 } }
      ∧ exec (.encStrict ⟨year, month, day, hour, minute, second, ms⟩) s
          = exec (.encRaw ⟨year, month, day, hour, minute, second, ms⟩) s)
    ∧ (¬ ((1980 ≤ year.toNat ∧ year.toNat ≤ 2107) ∧ (1 ≤ month.toNat ∧ month.toNat ≤ 12)
        ∧ (1 ≤ day.toNat ∧ day.toNat ≤ 31) ∧ hour.toNat ≤ 23 ∧ minute.toNat ≤ 59 ∧ second.toNat ≤ 59
        ∧ ms.toNat ≤ 999) →
      exec (.encStrict ⟨year, month, day, hour, minute, second, ms⟩) s
        = .next { s with out := ⟨1, 0, 0, 0, 0, 0, 0, 0, 0, 0, 0⟩ })

/-- 40_encode.md R86: the aliasing law, and 10_state.md R30: aliasing is an OR and never a carry. Each field contributes
`(v mod 2^(16-k)) << k` to its own word; cut at the bit fields, the low bits of a value fill its field, its excess bits
land in the higher fields of the same word, and the rest is dropped. It holds for ENC.RAW always and for ENC.LOOSE on
what it accepts. -/
def Obligations.OutOfRangeFieldsAliasUpwardByOr : Prop :=
  ∀ (f : DateTimeFields) (s : State) (i : Instr),
    (i = .encRaw f ∨ (i = .encLoose f ∧ f.LooselyValid)) →
    ∃ t, exec i s = .next t ∧ t.out.err = 0
      ∧ t.out.date_o.toNat = ((((f.year.toNat + 63556) % 65536 % 2 ^ 7) <<< 9) ||| ((f.month.toNat % 2 ^ 11) <<< 5)
          ||| (f.day.toNat % 2 ^ 16))
      ∧ t.out.time_o.toNat = (((f.hour.toNat % 2 ^ 5) <<< 11) ||| ((f.minute.toNat % 2 ^ 11) <<< 5)
          ||| (f.second.toNat / 2 % 2 ^ 16))
      ∧ t.out.date_o.toNat % 32 = f.day.toNat % 32
      ∧ t.out.date_o.toNat / 32 % 16 = (f.month.toNat % 16 ||| f.day.toNat / 32 % 16)
      ∧ t.out.date_o.toNat / 512 = (((f.year.toNat + 63556) % 128 ||| f.month.toNat / 16 % 128) ||| f.day.toNat / 512)
      ∧ t.out.time_o.toNat % 32 = f.second.toNat / 2 % 32
      ∧ t.out.time_o.toNat / 32 % 64 = (f.minute.toNat % 64 ||| f.second.toNat / 2 / 32 % 64)
      ∧ t.out.time_o.toNat / 2048 = ((f.hour.toNat % 32 ||| f.minute.toNat / 64 % 32) ||| f.second.toNat / 2 / 2048)

/-- The consequences 40_encode.md R86 lists, as ENC.RAW transactions on otherwise least fields: month 13 to 15 change no
other field, month 16 sets the year offset's low bit, day 32 the month's, year 2108 is dropped to offset 0, hour 32 is
dropped whole, minute 64 sets the hour's low bit, second 64 the minute's. -/
def Obligations.AliasingConsequencesOfRawPacking : Prop :=
  ∀ s : State,
    exec (.encRaw ⟨1980, 13, 1, 0, 0, 0, 0⟩) s = .next { s with out := ⟨0, 0x01A1, 0, 0x01A10000, 0, 0, 0, 0, 0, 0, 0⟩ }
    ∧ exec (.encRaw ⟨1980, 15, 1, 0, 0, 0, 0⟩) s = .next { s with out := ⟨0, 0x01E1, 0, 0x01E10000, 0, 0, 0, 0, 0, 0, 0⟩ }
    ∧ exec (.encRaw ⟨1980, 16, 1, 0, 0, 0, 0⟩) s = .next { s with out := ⟨0, 0x0201, 0, 0x02010000, 0, 0, 0, 0, 0, 0, 0⟩ }
    ∧ exec (.encRaw ⟨1980, 2, 32, 0, 0, 0, 0⟩) s = .next { s with out := ⟨0, 0x0060, 0, 0x00600000, 0, 0, 0, 0, 0, 0, 0⟩ }
    ∧ exec (.encRaw ⟨2108, 1, 1, 0, 0, 0, 0⟩) s = .next { s with out := ⟨0, 0x0021, 0, 0x00210000, 0, 0, 0, 0, 0, 0, 0⟩ }
    ∧ exec (.encRaw ⟨1980, 1, 1, 32, 0, 0, 0⟩) s = .next { s with out := ⟨0, 0x0021, 0, 0x00210000, 0, 0, 0, 0, 0, 0, 0⟩ }
    ∧ exec (.encRaw ⟨1980, 1, 1, 0, 64, 0, 0⟩) s = .next { s with out := ⟨0, 0x0021, 0x0800, 0x00210800, 0, 0, 0, 0, 0, 0, 0⟩ }
    ∧ exec (.encRaw ⟨1980, 1, 1, 0, 0, 64, 0⟩) s = .next { s with out := ⟨0, 0x0021, 0x0020, 0x00210020, 0, 0, 0, 0, 0, 0, 0⟩ }

/-- 40_encode.md R81: for every year, where month and day stay in their own bit fields, the date word holds
`(year - 1980) mod 128` in bits 15:9 (notes/assumptions/10.md for the premise). -/
def Obligations.DateWordHoldsTheYearModulo128 : Prop :=
  ∀ (f : DateTimeFields) (s : State), f.month.toNat < 16 → f.day.toNat < 32 →
    ∃ t, exec (.encRaw f) s = .next t
      ∧ (t.out.date_o.extractLsb' 9 7).toNat = (((f.year.toNat : Int) - 1980) % 128).toNat
      ∧ (t.out.date_o.extractLsb' 5 4).toNat = f.month.toNat ∧ (t.out.date_o.extractLsb' 0 5).toNat = f.day.toNat

/-- 40_encode.md R84: the words are the formulas' bits 15..0, and for natural fields nothing is dropped; the largest words
are 0xFF9F and 0xBF7D, and both are reached. -/
def Obligations.TruncationDropsNothingOfNaturalFields : Prop :=
  (∀ (f : DateTimeFields) (s : State), ∃ t, exec (.encRaw f) s = .next t
    ∧ t.out.date_o.toNat
        = ((((f.year.toNat + 63556) % 65536) <<< 9) ||| (f.month.toNat <<< 5) ||| f.day.toNat) % 65536
    ∧ t.out.time_o.toNat = ((f.hour.toNat <<< 11) ||| (f.minute.toNat <<< 5) ||| (f.second.toNat / 2)) % 65536
    ∧ (f.Natural →
        t.out.date_o.toNat = ((((f.year.toNat + 63556) % 65536) <<< 9) ||| (f.month.toNat <<< 5) ||| f.day.toNat)
        ∧ t.out.time_o.toNat = ((f.hour.toNat <<< 11) ||| (f.minute.toNat <<< 5) ||| (f.second.toNat / 2))
        ∧ t.out.date_o.toNat ≤ 0xFF9F ∧ t.out.time_o.toNat ≤ 0xBF7D))
  ∧ (∀ s : State, ∃ t, exec (.encRaw ⟨2107, 12, 31, 23, 59, 59, 999⟩) s = .next t
    ∧ t.out.date_o = 0xFF9F ∧ t.out.time_o = 0xBF7D)

/-- 30_encoding.md R63 to R65: the 32-bit value has the date word's fields above the time word's, at R65's bits, and
where every field fits its bit field each holds its input. Seconds 60 to 63 are among them and are not normalised into
the minute (10_state.md R30). -/
def Obligations.Dt32HoldsEveryFieldAtItsBits : Prop :=
  ∀ (f : DateTimeFields) (s : State), ∃ t, exec (.encRaw f) s = .next t
    ∧ t.out.dt32_o.extractLsb' 25 7 = t.out.date_o.extractLsb' 9 7
    ∧ t.out.dt32_o.extractLsb' 21 4 = t.out.date_o.extractLsb' 5 4
    ∧ t.out.dt32_o.extractLsb' 16 5 = t.out.date_o.extractLsb' 0 5
    ∧ t.out.dt32_o.extractLsb' 11 5 = t.out.time_o.extractLsb' 11 5
    ∧ t.out.dt32_o.extractLsb' 5 6 = t.out.time_o.extractLsb' 5 6
    ∧ t.out.dt32_o.extractLsb' 0 5 = t.out.time_o.extractLsb' 0 5
    ∧ (f.FitsBitFields →
        (t.out.date_o.extractLsb' 9 7).toNat = f.year.toNat - 1980
        ∧ (t.out.date_o.extractLsb' 5 4).toNat = f.month.toNat
        ∧ (t.out.date_o.extractLsb' 0 5).toNat = f.day.toNat
        ∧ (t.out.time_o.extractLsb' 11 5).toNat = f.hour.toNat
        ∧ (t.out.time_o.extractLsb' 5 6).toNat = f.minute.toNat
        ∧ (t.out.time_o.extractLsb' 0 5).toNat = f.second.toNat / 2)

/-- 30_encoding.md R66: ENC.STRICT never produces a word holding an out-of-range field value, and both ENC.LOOSE and
ENC.RAW can. -/
def Obligations.OnlyEncStrictKeepsWordsInNaturalRange : Prop :=
  (∀ (f : DateTimeFields) (s : State), ∃ t, exec (.encStrict f) s = .next t
    ∧ (t.out.err = 0 →
        1 ≤ t.out.date_o.toNat / 32 % 16 ∧ t.out.date_o.toNat / 32 % 16 ≤ 12 ∧ 1 ≤ t.out.date_o.toNat % 32
        ∧ t.out.time_o.toNat / 2048 ≤ 23 ∧ t.out.time_o.toNat / 32 % 64 ≤ 59 ∧ t.out.time_o.toNat % 32 ≤ 29))
  ∧ (∀ s : State, ∃ t, exec (.encLoose ⟨1980, 13, 1, 24, 60, 60, 0⟩) s = .next t ∧ t.out.err = 0
      ∧ t.out.date_o.toNat / 32 % 16 = 13 ∧ t.out.time_o.toNat / 2048 = 24 ∧ t.out.time_o.toNat / 32 % 64 = 60
      ∧ t.out.time_o.toNat % 32 = 30)
  ∧ (∀ s : State, ∃ t, exec (.encRaw ⟨1980, 0, 0, 0, 0, 0, 0⟩) s = .next t ∧ t.out.err = 0
      ∧ t.out.date_o.toNat / 32 % 16 = 0 ∧ t.out.date_o.toNat % 32 = 0)

/-- 30_encoding.md R66's counts, by what ENC.STRICT accepts of DEC's outputs: with a time word in range, 128 * 12 * 31 of
the 65536 date words have every field in range; with a date word in range, 24 * 60 * 30 of the time words do. -/
def Obligations.CountsOfWordsWithEveryFieldInRange : Prop :=
  (List.range 65536).countP (fun d => strictAcceptsDecoded (BitVec.ofNat 16 d) 0x0000) = 47616
    ∧ (List.range 65536).countP (fun t => strictAcceptsDecoded 0x0021 (BitVec.ofNat 16 t)) = 43200

/-- 40_encode.md R92: the same input vector gives the same output vector, from whatever state. -/
def Obligations.EncodeIsDeterministic : Prop :=
  ∀ (f : DateTimeFields) (s s' : State) (i : Instr), (i = .encRaw f ∨ i = .encLoose f ∨ i = .encStrict f) →
    ∃ t t', exec i s = .next t ∧ exec i s' = .next t' ∧ t.out = t'.out

/-- 40_encode.md R93 (and R83): `ms` changes no output of ENC.RAW and ENC.LOOSE, none of ENC.STRICT within 0..999, and
from 1000 on it makes ENC.STRICT raise. -/
def Obligations.MillisecondsNeverReachAWord : Prop :=
  ∀ (year month day hour minute second ms ms' : Word) (s : State),
    exec (.encRaw ⟨year, month, day, hour, minute, second, ms⟩) s
      = exec (.encRaw ⟨year, month, day, hour, minute, second, ms'⟩) s
    ∧ exec (.encLoose ⟨year, month, day, hour, minute, second, ms⟩) s
      = exec (.encLoose ⟨year, month, day, hour, minute, second, ms'⟩) s
    ∧ (ms.toNat ≤ 999 → ms'.toNat ≤ 999 →
        exec (.encStrict ⟨year, month, day, hour, minute, second, ms⟩) s
          = exec (.encStrict ⟨year, month, day, hour, minute, second, ms'⟩) s)
    ∧ (1000 ≤ ms.toNat → ∃ t, exec (.encStrict ⟨year, month, day, hour, minute, second, ms⟩) s = .next t
        ∧ t.out.err = 1)

/-- 40_encode.md R94 (and R82): seconds are truncated, never rounded. The time word's low bits hold the floor of half the
second, whichever operation packs; a second in its range fits them whole. -/
def Obligations.SecondsAreTruncatedToEven : Prop :=
  ∀ (f : DateTimeFields) (s : State) (i : Instr),
    (i = .encRaw f ∨ (i = .encLoose f ∧ f.LooselyValid) ∨ (i = .encStrict f ∧ f.Natural)) →
    ∃ t, exec i s = .next t ∧ (t.out.time_o.extractLsb' 0 5).toNat = f.second.toNat / 2 % 32
      ∧ (f.second.toNat ≤ 59 → (t.out.time_o.extractLsb' 0 5).toNat = f.second.toNat / 2)
      ∧ (f.second = 0 ∨ f.second = 1 → t.out.time_o.extractLsb' 0 5 = 0)
      ∧ (f.second = 58 ∨ f.second = 59 → t.out.time_o.extractLsb' 0 5 = 0x1D)

/-- 40_encode.md R95: the year boundary. In otherwise natural fields 1980 gives offset 0 and 2107 gives 127; 2108 raises
under ENC.STRICT and ENC.LOOSE and gives offset 0 under ENC.RAW with no other field changed. -/
def Obligations.YearBoundary : Prop :=
  ∀ (month day hour minute second ms : Word) (s : State),
    (DateTimeFields.Natural ⟨1980, month, day, hour, minute, second, ms⟩ →
      ∃ t u w, exec (.encStrict ⟨1980, month, day, hour, minute, second, ms⟩) s = .next t
        ∧ t.out.err = 0 ∧ t.out.date_o.extractLsb' 9 7 = 0
        ∧ exec (.encStrict ⟨2107, month, day, hour, minute, second, ms⟩) s = .next u
        ∧ u.out.err = 0 ∧ u.out.date_o.extractLsb' 9 7 = 0x7F
        ∧ exec (.encRaw ⟨2108, month, day, hour, minute, second, ms⟩) s = .next w
        ∧ w.out.date_o.extractLsb' 9 7 = 0 ∧ w.out = t.out)
    ∧ exec (.encRaw ⟨2108, month, day, hour, minute, second, ms⟩) s
        = exec (.encRaw ⟨1980, month, day, hour, minute, second, ms⟩) s
    ∧ (∃ t, exec (.encStrict ⟨2108, month, day, hour, minute, second, ms⟩) s = .next t ∧ t.out.err = 1)
    ∧ (∃ t, exec (.encLoose ⟨2108, month, day, hour, minute, second, ms⟩) s = .next t ∧ t.out.err = 1)

/-! ## The decode family and the round trips -/

/-- 41_decode.md R110, R111: DEC unpacks any two words, validates nothing and never raises. -/
def Obligations.DecUnpacksAnyWords : Prop :=
  ∀ (date time : Word) (s : State), exec (.dec date time) s = .next { s with out :=
    { err := 0, date_o := 0, time_o := 0, dt32_o := 0
      year_o := BitVec.ofNat 16 (1980 + date.toNat / 512)
      month_o := BitVec.ofNat 16 (date.toNat / 32 % 16)
      day_o := BitVec.ofNat 16 (date.toNat % 32)
      hour_o := BitVec.ofNat 16 (time.toNat / 2048)
      minute_o := BitVec.ofNat 16 (time.toNat / 32 % 64)
      second_o := BitVec.ofNat 16 (time.toNat % 32 * 2)
      ms_o := 0 } }

/-- 41_decode.md R112: the ranges of the decoded values, for every input pair. -/
def Obligations.DecodedValuesStayInTheirRanges : Prop :=
  ∀ (date time : Word) (s : State), ∃ t, exec (.dec date time) s = .next t ∧ t.out.DecodedRanges

/-- 41_decode.md R113: what ENC.STRICT packs, DEC gives back, the second rounded down to even and the millisecond 0; ENC.LOOSE and
ENC.RAW pack the same words. -/
def Obligations.FieldsSurviveTheRoundTrip : Prop :=
  ∀ (f : DateTimeFields) (s s' : State), f.Natural →
    ∃ t u, exec (.encStrict f) s = .next t ∧ t.out.err = 0
      ∧ exec (.encLoose f) s = .next t ∧ exec (.encRaw f) s = .next t
      ∧ exec (.dec t.out.date_o t.out.time_o) s' = .next u ∧ u.out.err = 0
      ∧ u.out.year_o = f.year ∧ u.out.month_o = f.month ∧ u.out.day_o = f.day ∧ u.out.hour_o = f.hour
      ∧ u.out.minute_o = f.minute ∧ u.out.second_o.toNat = 2 * (f.second.toNat / 2) ∧ u.out.ms_o = 0

/-- The round trip is exact for no more fields than those that fit their bit fields: ENC.RAW then DEC gives the fields
back, the second rounded down to even, exactly then (from 40_encode.md R86, 41_decode.md R112, 70_reset_and_hazards.md R153). -/
def Obligations.RawRoundTripIsExactExactlyOnFittingFields : Prop :=
  ∀ (f : DateTimeFields) (s s' : State),
    ∃ t u, exec (.encRaw f) s = .next t ∧ exec (.dec t.out.date_o t.out.time_o) s' = .next u
      ∧ ((u.out.year_o = f.year ∧ u.out.month_o = f.month ∧ u.out.day_o = f.day ∧ u.out.hour_o = f.hour
          ∧ u.out.minute_o = f.minute ∧ u.out.second_o.toNat = 2 * (f.second.toNat / 2)) ↔ f.FitsBitFields)

/-- 41_decode.md R114: ENC.RAW gives back every word pair from what DEC made of it, with any `ms`; so DEC is injective. -/
def Obligations.WordsSurviveTheRoundTrip : Prop :=
  ∀ (date time ms : Word) (s s' : State),
    ∃ t u, exec (.dec date time) s = .next t
      ∧ exec (.encRaw ⟨t.out.year_o, t.out.month_o, t.out.day_o, t.out.hour_o, t.out.minute_o, t.out.second_o, ms⟩) s'
          = .next u
      ∧ u.out.err = 0 ∧ u.out.date_o = date ∧ u.out.time_o = time
      ∧ ∀ (date' time' : Word) (t' : State), exec (.dec date' time') s = .next t' → t'.out = t.out →
          date' = date ∧ time' = time

/-- 41_decode.md R115: re-encoding a decoded word pair under a checking contract gives the pair back exactly where its
fields pass the contract, and raises otherwise. -/
def Obligations.ReencodingADecodedPairUnderAContract : Prop :=
  ∀ (date time : Word) (s s' : State),
    ∃ t u w, exec (.dec date time) s = .next t
      ∧ exec (.encStrict ⟨t.out.year_o, t.out.month_o, t.out.day_o, t.out.hour_o, t.out.minute_o, t.out.second_o,
          t.out.ms_o⟩) s' = .next u
      ∧ exec (.encLoose ⟨t.out.year_o, t.out.month_o, t.out.day_o, t.out.hour_o, t.out.minute_o, t.out.second_o,
          t.out.ms_o⟩) s' = .next w
      ∧ (if 1 ≤ (date.extractLsb' 5 4).toNat ∧ (date.extractLsb' 5 4).toNat ≤ 12 ∧ 1 ≤ (date.extractLsb' 0 5).toNat
            ∧ (time.extractLsb' 11 5).toNat ≤ 23 ∧ (time.extractLsb' 5 6).toNat ≤ 59
            ∧ (time.extractLsb' 0 5).toNat ≤ 29
          then u.out.err = 0 ∧ u.out.date_o = date ∧ u.out.time_o = time
          else u.out = ⟨1, 0, 0, 0, 0, 0, 0, 0, 0, 0, 0⟩)
      ∧ (if 1 ≤ (date.extractLsb' 5 4).toNat ∧ 1 ≤ (date.extractLsb' 0 5).toNat
          then w.out.err = 0 ∧ w.out.date_o = date ∧ w.out.time_o = time
          else w.out = ⟨1, 0, 0, 0, 0, 0, 0, 0, 0, 0, 0⟩)

/-! ## Decoding and encoding of transactions -/

/-- For every instruction and every operand, the vector that presents it decodes to it, and so does that vector as one
number, alone or as the host numbers a table word (30_encoding.md R60, R61, R67; the numbering is notes/assumptions/5.md). -/
def Obligations.DecodeAndEncodeAgree : Prop :=
  ∀ i : Instr, decode (encode i) = i ∧ decodeNumber (encodeNumber i) = .ok i
    ∧ decodeTableWord 146 (encodeNumber i) = some i ∧ decodeTableWord 152 (encodeNumber i) = some i

/-- Input vectors and numbers of 146 bits stand for one another, no bit lost either way (the numbering is
notes/assumptions/5.md). -/
def Obligations.InputVectorsAreNumbersOf146Bits : Prop :=
  (∀ v : Inputs, v.toNumber < 2 ^ 146 ∧ Inputs.ofNumber v.toNumber = v)
    ∧ ∀ w : Nat, w < 2 ^ 146 → (Inputs.ofNumber w).toNumber = w

/-- 30_encoding.md R62: decoding refuses no input vector; only a number that is none is refused, by name
(notes/assumptions/5.md). -/
def Obligations.DecodingIsTotalOnInputVectors : Prop :=
  ∀ w : Nat, (w < 2 ^ 146 → ∃ i, decodeNumber w = .ok i)
    ∧ (2 ^ 146 ≤ w → decodeNumber w = .error .vectorTooWide)

/-- A step after a table word was placed runs exactly the instruction the decoder reads from it (notes/assumptions/6.md). -/
def Obligations.PlacedTableWordRunsNext : Prop :=
  ∀ (s : State) (nbits w : Nat) (i : Instr), decodeTableWord nbits w = some i →
    ∃ v : Inputs, decode v = i ∧ step (s.withFetchWord nbits w) = exec i { s with inp := v }

/-- Vectors written out from 95_test_vectors.md's encodings (P1 T1, P2 T2, P3 1b, P1 T2), port by port, decode to the
transactions they stand for. -/
def Obligations.SampleVectorsDecode : Prop :=
  decode ⟨0b00#2, 0x07E8, 0x0006, 0x000F, 0x000D, 0x001E, 0x002D, 0x01F4, 0x0000, 0x0000⟩
      = .encStrict ⟨2024, 6, 15, 13, 30, 45, 500⟩
    ∧ decode ⟨0b01#2, 0x07BC, 0x0010, 0x0001, 0x0000, 0x0000, 0x0000, 0x0000, 0x0000, 0x0000⟩
      = .encLoose ⟨1980, 16, 1, 0, 0, 0, 0⟩
    ∧ decode ⟨0b10#2, 0x07BB, 0x0001, 0x0001, 0x0000, 0x0000, 0x0000, 0x0000, 0x0000, 0x0000⟩
      = .encRaw ⟨1979, 1, 1, 0, 0, 0, 0⟩
    ∧ decode ⟨0b11#2, 0x0000, 0x0000, 0x0000, 0x0000, 0x0000, 0x0000, 0x0000, 0x58CF, 0x6BD6⟩
      = .dec 0x58CF 0x6BD6

/-- 30_encoding.md R68, 93_implementation_defined.md I8: the transcriber accepts exactly the well-formed lines, every
operand given and each a literal 0..65535 (notes/assumptions/9.md for the form of a literal). -/
def Obligations.TranscriberAcceptsExactlyWellFormedLines : Prop :=
  ∀ l : AsmLine, (∃ i, transcribe l = .ok i) ↔
    (l.operands.length = l.mnemonic.arity ∧ ∀ o ∈ l.operands, o.hasDigits = true ∧ o.value ≤ 65535)

/-- 30_encoding.md R69: the pseudo-instruction ENC is ENC.STRICT. -/
def Obligations.PseudoEncIsEncStrict : Prop :=
  ∀ operands : List Literal, transcribe ⟨.enc, operands⟩ = transcribe ⟨.encStrict, operands⟩

/-- Every well-formed line of 30_encoding.md R68 is read back from its own characters (notes/assumptions/9.md). -/
def Obligations.WellFormedLinesReadBackFromTheirText : Prop :=
  ∀ l : AsmLine, l.wellFormed = true → lineOfChars l.text = .ok l

/-- Every instruction, with every operand, is assembled from the line of 30_encoding.md R68 that names it, ENC operands in
decimal and DEC operands in hexadecimal (notes/assumptions/9.md). -/
def Obligations.EveryInstructionAssemblesFromItsLine : Prop :=
  ∀ i : Instr, transcribe i.line = .ok i ∧ assemble i.line.text = .ok i
end

