-- ==== Sys2Proof/Laws/Flags.lean ====
section
/-! SUPPORT. The two predicates say what the spec's numbers say (40_encode.md R87, R88). -/

namespace Sys2Proof.Machine

theorem strict_eq_true_iff (f : DateTimeFields) : strict f = true ↔ f.Natural := by
  simp [strict, yearInRange, and_assoc]

theorem loose_eq_true_iff (f : DateTimeFields) : loose f = true ↔ f.LooselyValid := by
  simp [loose, yearInRange, and_assoc]

/-- The strict contract accepts no more than the loose one. -/
theorem loose_of_strict {f : DateTimeFields} (h : strict f = true) : loose f = true := by
  rw [strict_eq_true_iff] at h
  rw [loose_eq_true_iff]
  omega

end Sys2Proof.Machine
end

