-- ==== Sys2Proof/Laws/Notation.lean ====
section
/-! SUPPORT. The notation's digits and literals read back as they were written. -/

namespace Sys2Proof

/-- A digit's character reads back as the digit. -/
theorem digitValue_digitChar : ∀ v : Fin 16, digitValue (digitChar v.val) = some v.val := by decide

/-- No digit's character is a separator or the `x` of `0x`. -/
theorem digitChar_plain : ∀ v : Fin 16, digitChar v.val ≠ ',' ∧ digitChar v.val ≠ ' ' ∧ digitChar v.val ≠ 'x' := by decide

/-- Written digits read back, in any base up to 16. -/
theorem digitsOfChars_map (base : Nat) (hb : base ≤ 16) (ds : List (Fin base)) :
    digitsOfChars base (ds.map fun d => digitChar d.val) = .ok ds := by
  induction ds with
  | nil => rfl
  | cons d ds ih =>
    simp only [List.map, digitsOfChars, ih]
    rw [digitValue_digitChar ⟨d.val, by omega⟩]
    simp

/-- The decimal digits of a value spell the value. -/
theorem shortDigits_value (n v : Nat) (h : v < 10 ^ n) :
    (shortDigits 10 n v).foldl (fun a d => 10 * a + d.val) 0 = v := by
  induction n generalizing v with
  | zero => simp at h; subst h; rfl
  | succ n ih =>
    rw [shortDigits]
    split
    · simp; omega
    · rw [List.foldl_append, ih _ (by rw [pow_succ] at h; omega)]; simp; omega

/-- The hexadecimal digits of a value spell the value. -/
theorem fixedDigits_value (n v : Nat) (h : v < 16 ^ n) :
    (fixedDigits 16 n v).foldl (fun a d => 16 * a + d.val) 0 = v := by
  induction n generalizing v with
  | zero => simp at h; subst h; rfl
  | succ n ih =>
    rw [fixedDigits, List.foldl_append, ih _ (by rw [pow_succ] at h; omega)]; simp; omega

end Sys2Proof
end

