-- ==== Sys2Proof/Laws/Operands.lean ====
section
/-! SUPPORT. The operand forms and the two datapaths in plain arithmetic: what a field contributes to its word
(40_encode.md R86) and what a word's fields are (41_decode.md R110). -/

namespace Sys2Proof.Machine

@[simp] theorem trunc16_toNat (v : Nat) : (trunc16 v).toNat = v % 2 ^ 16 := by simp [trunc16]

@[simp] theorem zext16_toNat (v : Nat) : (zext16 v).toNat = v % 2 ^ 16 := by simp [zext16]

/-- The year offset without a negative difference. -/
theorem yearOffset_eq (year : Word) : yearOffset year = (year.toNat + 63556) % 65536 := by
  have h := year.isLt
  simp only [yearOffset, Config.yearBase]
  omega

/-- In the year's range the offset is the plain difference (40_encode.md R81). -/
theorem yearOffset_of_range {year : Word} (lo : 1980 ≤ year.toNat) (hi : year.toNat ≤ 2107) :
    yearOffset year = year.toNat - 1980 := by
  rw [yearOffset_eq]; omega

theorem halfSecond_eq (second : Word) : halfSecond second = second.toNat / 2 := rfl

theorem yoffField_eq (date : Word) : yoffField date = date.toNat / 512 := by
  simp [yoffField, Nat.shiftRight_eq_div_pow]

theorem monField_eq (date : Word) : monField date = date.toNat / 32 % 16 := by
  have h : (0xF : Nat) = 2 ^ 4 - 1 := rfl
  rw [monField, h, Nat.and_two_pow_sub_one_eq_mod, Nat.shiftRight_eq_div_pow]

theorem dayField_eq (date : Word) : dayField date = date.toNat % 32 := by
  have h : (0x1F : Nat) = 2 ^ 5 - 1 := rfl
  rw [dayField, h, Nat.and_two_pow_sub_one_eq_mod]

theorem hourField_eq (time : Word) : hourField time = time.toNat / 2048 := by
  simp [hourField, Nat.shiftRight_eq_div_pow]

theorem minField_eq (time : Word) : minField time = time.toNat / 32 % 64 := by
  have h : (0x3F : Nat) = 2 ^ 6 - 1 := rfl
  rw [minField, h, Nat.and_two_pow_sub_one_eq_mod, Nat.shiftRight_eq_div_pow]

theorem sec2Field_eq (time : Word) : sec2Field time = time.toNat % 32 := by
  have h : (0x1F : Nat) = 2 ^ 5 - 1 := rfl
  rw [sec2Field, h, Nat.and_two_pow_sub_one_eq_mod]

/-- A shifted field cut to 16 bits is the field cut to the bits it has left, shifted: no bit wraps around
(40_encode.md R86 c). -/
theorem shiftLeft_mod (v k : Nat) (hk : k ≤ 16) : (v <<< k) % 2 ^ 16 = (v % 2 ^ (16 - k)) * 2 ^ k := by
  have h : (2 : Nat) ^ 16 = 2 ^ (16 - k) * 2 ^ k := by rw [← Nat.pow_add]; congr 1; omega
  rw [Nat.shiftLeft_eq, h, Nat.mul_mod_mul_right]

/-- The date word as the OR of what each field contributes. -/
theorem packDate_toNat (year month day : Word) :
    (packDate year month day).toNat
      = ((yearOffset year % 2 ^ 7) * 2 ^ 9) ||| ((month.toNat % 2 ^ 11) * 2 ^ 5) ||| day.toNat := by
  rw [packDate, trunc16_toNat, Nat.or_mod_two_pow, Nat.or_mod_two_pow, shiftLeft_mod _ 9 (by omega),
    shiftLeft_mod _ 5 (by omega), Nat.mod_eq_of_lt day.isLt]

/-- The time word as the OR of what each field contributes. -/
theorem packTime_toNat (hour minute second : Word) :
    (packTime hour minute second).toNat
      = ((hour.toNat % 2 ^ 5) * 2 ^ 11) ||| ((minute.toNat % 2 ^ 11) * 2 ^ 5) ||| second.toNat / 2 := by
  have h : halfSecond second < 2 ^ 16 := by
    have := second.isLt
    rw [halfSecond_eq]; omega
  rw [packTime, trunc16_toNat, Nat.or_mod_two_pow, Nat.or_mod_two_pow, shiftLeft_mod _ 11 (by omega),
    shiftLeft_mod _ 5 (by omega), Nat.mod_eq_of_lt h, halfSecond_eq]

/-- An OR with a value below the shifted one's low bit is a sum. -/
theorem mul_pow_or {a b k : Nat} (hb : b < 2 ^ k) : a * 2 ^ k ||| b = a * 2 ^ k + b := by
  rw [Nat.mul_comm, Nat.two_pow_add_eq_or_of_lt hb]

/-- Fields that fit their places pack to a plain sum. -/
theorem packDate_of_fits {year month day : Word} (hy : 1980 ≤ year.toNat) (hy' : year.toNat ≤ 2107)
    (hm : month.toNat < 16) (hd : day.toNat < 32) :
    (packDate year month day).toNat = (year.toNat - 1980) * 512 + month.toNat * 32 + day.toNat := by
  rw [packDate_toNat, yearOffset_of_range hy hy', Nat.mod_eq_of_lt (by omega), Nat.mod_eq_of_lt (by omega), Nat.or_assoc,
    mul_pow_or (k := 5) (by omega), mul_pow_or (k := 9) (by omega)]
  omega

/-- Fields that fit their places pack to a plain sum. -/
theorem packTime_of_fits {hour minute second : Word} (hh : hour.toNat < 32) (hm : minute.toNat < 64)
    (hs : second.toNat < 64) :
    (packTime hour minute second).toNat = hour.toNat * 2048 + minute.toNat * 32 + second.toNat / 2 := by
  rw [packTime_toNat, Nat.mod_eq_of_lt (by omega), Nat.mod_eq_of_lt (by omega), Nat.or_assoc,
    mul_pow_or (k := 5) (by omega), mul_pow_or (k := 11) (by omega)]
  omega

/-- An OR of three values is cut to its low bits part by part. -/
theorem or3_mod (a b c k : Nat) : (a ||| b ||| c) % 2 ^ k = a % 2 ^ k ||| b % 2 ^ k ||| c % 2 ^ k := by
  rw [Nat.or_mod_two_pow, Nat.or_mod_two_pow]

/-- An OR of three values is shifted down part by part. -/
theorem or3_div (a b c k : Nat) : (a ||| b ||| c) / 2 ^ k = a / 2 ^ k ||| b / 2 ^ k ||| c / 2 ^ k := by
  simp only [← Nat.shiftRight_eq_div_pow, Nat.shiftRight_or_distrib]

/-- The date word's day field: only the day's low bits reach it (40_encode.md R86 d). -/
theorem packDate_mod_32 (year month day : Word) : (packDate year month day).toNat % 32 = day.toNat % 32 := by
  rw [packDate_toNat, show (32 : Nat) = 2 ^ 5 from rfl, or3_mod]
  have h : yearOffset year % 2 ^ 7 * 2 ^ 9 % 2 ^ 5 = 0 := by omega
  have h' : month.toNat % 2 ^ 11 * 2 ^ 5 % 2 ^ 5 = 0 := by omega
  rw [h, h', Nat.zero_or, Nat.zero_or]

/-- The time word's seconds field: only the halved second's low bits reach it. -/
theorem packTime_mod_32 (hour minute second : Word) :
    (packTime hour minute second).toNat % 32 = second.toNat / 2 % 32 := by
  rw [packTime_toNat, show (32 : Nat) = 2 ^ 5 from rfl, or3_mod]
  have h : hour.toNat % 2 ^ 5 * 2 ^ 11 % 2 ^ 5 = 0 := by omega
  have h' : minute.toNat % 2 ^ 11 * 2 ^ 5 % 2 ^ 5 = 0 := by omega
  rw [h, h', Nat.zero_or, Nat.zero_or]

/-- The 32-bit value is the concatenation of the words (20_memory.md R43). -/
theorem concatWords_eq (date time : Word) : concatWords date time = date ++ time := by
  apply BitVec.eq_of_toNat_eq
  have h := date.isLt
  have h' := time.isLt
  rw [BitVec.toNat_append, concatWords, BitVec.toNat_ofNat, Nat.mod_eq_of_lt]
  rw [Nat.shiftLeft_eq, mul_pow_or (k := 16) (by omega)]
  omega

end Sys2Proof.Machine
end

