-- ==== Sys2Proof/Laws/PerInstr.lean ====
section
/-! SUPPORT. Per-instruction facts, one lemma per constructor. PresentedVector: the vector that presents an instruction
has the `op` code of opcode_table.json, each operand on its own port (30_encoding.md R61, R67), and 0 on every port the
instruction does not read (notes/assumptions/7.md). -/

namespace Sys2Proof.Laws.PresentedVector

/-- What the vector presenting an instruction holds. -/
def Statement (i : Instr) : Prop :=
  match i with
  | .encStrict f => encode i = ⟨0b00#2, f.year, f.month, f.day, f.hour, f.minute, f.second, f.ms, 0, 0⟩
  | .encLoose f => encode i = ⟨0b01#2, f.year, f.month, f.day, f.hour, f.minute, f.second, f.ms, 0, 0⟩
  | .encRaw f => encode i = ⟨0b10#2, f.year, f.month, f.day, f.hour, f.minute, f.second, f.ms, 0, 0⟩
  | .dec d t => encode i = ⟨0b11#2, 0, 0, 0, 0, 0, 0, 0, d, t⟩

theorem encStrict (f : DateTimeFields) : Statement (.encStrict f) := rfl
theorem encLoose (f : DateTimeFields) : Statement (.encLoose f) := rfl
theorem encRaw (f : DateTimeFields) : Statement (.encRaw f) := rfl
theorem dec (date time : Word) : Statement (.dec date time) := rfl

end Sys2Proof.Laws.PresentedVector
end

