-- ==== Sys2Proof/Laws/State.lean ====
section
/-! SUPPORT. What each update of State leaves in each field, so that no later proof unfolds a record update. -/

namespace Sys2Proof.Machine

@[simp] theorem State.drive_out (s : State) (o : Outputs) : (s.drive o).out = o := rfl
@[simp] theorem State.drive_inp (s : State) (o : Outputs) : (s.drive o).inp = s.inp := rfl
@[simp] theorem State.drive_pending (s : State) (o : Outputs) : (s.drive o).pending = s.pending := rfl

@[simp] theorem State.schedule_out (s : State) (v : Inputs) : (s.schedule v).out = s.out := rfl
@[simp] theorem State.schedule_inp (s : State) (v : Inputs) : (s.schedule v).inp = s.inp := rfl
@[simp] theorem State.schedule_pending (s : State) (v : Inputs) : (s.schedule v).pending = v :: s.pending := rfl

@[simp] theorem raiseInvalidArgument_out (s : State) : (raiseInvalidArgument s).out = invalidArgumentOut := rfl
@[simp] theorem raiseInvalidArgument_inp (s : State) : (raiseInvalidArgument s).inp = s.inp := rfl
@[simp] theorem raiseInvalidArgument_pending (s : State) : (raiseInvalidArgument s).pending = s.pending := rfl

@[simp] theorem driveWords_out (f : DateTimeFields) (s : State) :
    (driveWords f s).out = wordsOut (packDate f.year f.month f.day) (packTime f.hour f.minute f.second) := rfl
@[simp] theorem driveWords_inp (f : DateTimeFields) (s : State) : (driveWords f s).inp = s.inp := rfl
@[simp] theorem driveWords_pending (f : DateTimeFields) (s : State) : (driveWords f s).pending = s.pending := rfl

/-- A host with nothing scheduled leaves the vector that stands on the ports. -/
theorem State.present_of_nil {s : State} (h : s.pending = []) : s.present = s := by
  simp [State.present, h]

/-- A host with a schedule presents its first vector and keeps the rest. -/
theorem State.present_of_cons {s : State} {v : Inputs} {rest : List Inputs} (h : s.pending = v :: rest) :
    s.present = { s with inp := v, pending := rest } := by
  simp [State.present, h]

@[simp] theorem State.present_cons (i : Inputs) (o : Outputs) (v : Inputs) (rest : List Inputs) :
    State.present ⟨i, o, v :: rest⟩ = ⟨v, o, rest⟩ := rfl
@[simp] theorem State.present_nil (i : Inputs) (o : Outputs) : State.present ⟨i, o, []⟩ = ⟨i, o, []⟩ := rfl

/-- Presenting a vector does not touch the output ports. -/
@[simp] theorem State.present_out (s : State) : s.present.out = s.out := by
  cases h : s.pending <;> simp [State.present, h]

/-- What is scheduled first is presented first. -/
@[simp] theorem State.present_schedule (s : State) (v : Inputs) : (s.schedule v).present = { s with inp := v } := rfl

end Sys2Proof.Machine
end

