-- ==== Sys2Proof/Laws/Step.lean ====
section
/-! SUPPORT. What each shared operation and a step can do, said once. -/

namespace Sys2Proof.Machine

/-- The output vector each instruction drives, as one function. -/
def instrOut : Instr → Outputs
  | .encStrict f =>
    if strict f then wordsOut (packDate f.year f.month f.day) (packTime f.hour f.minute f.second) else invalidArgumentOut
  | .encLoose f =>
    if loose f then wordsOut (packDate f.year f.month f.day) (packTime f.hour f.minute f.second) else invalidArgumentOut
  | .encRaw f => wordsOut (packDate f.year f.month f.day) (packTime f.hour f.minute f.second)
  | .dec d t => unpackOut d t

/-- Encode under a contract drives the words or raises, and nothing else. -/
theorem encodeUnder_eq (c : DateTimeFields → Bool) (f : DateTimeFields) (s : State) :
    encodeUnder c f s = s.drive (if c f then wordsOut (packDate f.year f.month f.day)
      (packTime f.hour f.minute f.second) else invalidArgumentOut) := by
  unfold encodeUnder
  split <;> rfl

/-- Every instruction drives the output ports and does nothing else. -/
theorem exec_eq (i : Instr) (s : State) : exec i s = .next (s.drive (instrOut i)) := by
  cases i with
  | encStrict f => simp only [exec, execEncStrict, encodeUnder_eq, instrOut]
  | encLoose f => simp only [exec, execEncLoose, encodeUnder_eq, instrOut]
  | encRaw f => rfl
  | dec d t => rfl

/-- If an instruction answers a state, it is the same state with the instruction's output vector. -/
theorem exec_next {i : Instr} {s t : State} (h : exec i s = .next t) : t = s.drive (instrOut i) := by
  rw [exec_eq] at h
  exact (Host.Outcome.next.inj h).symm

/-- A step presents a vector and drives the outputs of the instruction it selects. -/
theorem step_eq (s : State) : step s = .next (s.present.drive (instrOut (decode s.present.inp))) := exec_eq _ _

/-- If a step answers a state, it is the presented one with its own vector's outputs. -/
theorem step_next {s t : State} (h : step s = .next t) : t = s.present.drive (instrOut (decode s.present.inp)) := by
  rw [step_eq] at h
  exact (Host.Outcome.next.inj h).symm

/-- The step after a table word was placed runs that word's instruction. -/
theorem step_withFetchWord (s : State) (nbits w : Nat) :
    step (s.withFetchWord nbits w)
      = exec (decode (Inputs.ofNumber (tableVector nbits w))) { s with inp := Inputs.ofNumber (tableVector nbits w) } :=
  rfl

/-- An instance's turn changes that instance alone, by one step. -/
theorem stepInstance_eq (k : Nat) (sys : List State) :
    stepInstance k sys
      = .next (sys.modify k (fun s => s.present.drive (instrOut (decode s.present.inp)))) := by
  induction sys generalizing k with
  | nil => cases k <;> rfl
  | cons s rest ih =>
    cases k with
    | zero => simp [stepInstance, step_eq]
    | succ k => simp [stepInstance, ih]

end Sys2Proof.Machine
end

