-- ==== Sys2Proof/Laws/Run.lean ====
section
/-! SUPPORT. Runs of many transactions: a run peels off one step at a time. -/

namespace Sys2Proof.Laws

/-- A run of one step more is the run from the step's answer. -/
theorem run_succ_of_step (M : Host.Core) (n : Nat) {s t : M.State} (h : M.step s = .next t) :
    M.run (n + 1) s = M.run n t := by
  simp [Host.Core.run, h]

end Sys2Proof.Laws

namespace Sys2Proof.Machine

/-- CORE's run of one transaction more. -/
theorem core_run_succ (n : Nat) (s : State) :
    core.run (n + 1) s = core.run n (s.present.drive (instrOut (decode s.present.inp))) :=
  Laws.run_succ_of_step core n (step_eq s)

end Sys2Proof.Machine
end

