-- ==== Sys2Proof/Tests/Slice0.lean ====
section
/-! SUPPORT. The model's own tests. Expected values come from 95_test_vectors.md, from the port encodings its programs
write out, and from the opcode table; each test names its source. The last part shows, for every statement with
hypotheses, a concrete input that meets them. -/

namespace Sys2Proof.Tests

open Sys2Proof.Machine

/-! ## Helpers -/

/-- The state an outcome answers. -/
def answer : Host.Outcome State Fault Refusal → Option State
  | .next s => some s
  | .fault _ => none
  | .refused _ => none

/-- The output vector an outcome answers. -/
def outputs (o : Host.Outcome State Fault Refusal) : Option Outputs := (answer o).map State.out

/-- A state about to perform a vector, with data on its outputs that no transaction may let through. -/
def before (v : Inputs) : State where
  inp := ⟨0, 9, 9, 9, 9, 9, 9, 9, 9, 9⟩
  out := ⟨1, 9, 9, 9, 9, 9, 9, 9, 9, 9, 9⟩
  pending := [v]

/-- An output vector of an encode transaction, from its four written ports. -/
def encOut (err : ErrBit) (date time : Word) (dt32 : DWord) : Outputs := ⟨err, date, time, dt32, 0, 0, 0, 0, 0, 0, 0⟩

/-- An output vector of a decode transaction, from its fields. -/
def decOut (f : DateTimeFields) : Outputs := ⟨0, 0, 0, 0, f.year, f.month, f.day, f.hour, f.minute, f.second, f.ms⟩

/-- Every encode vector's outputs are the ones listed. -/
def encodesAs (mk : DateTimeFields → Instr) (vs : List (DateTimeFields × ErrBit × Word × Word × DWord)) : Bool :=
  vs.all fun r => outputs (exec (mk r.1) State.reset) == some (encOut r.2.1 r.2.2.1 r.2.2.2.1 r.2.2.2.2)

/-- 95_test_vectors.md, V-RAW-1 to V-RAW-27: fields, err, date, time, dt32. -/
def rawVectors : List (DateTimeFields × ErrBit × Word × Word × DWord) :=
  [(⟨1980, 1, 1, 0, 0, 0, 0⟩, 0, 0x0021, 0x0000, 0x00210000),
      (⟨2107, 12, 31, 23, 59, 59, 999⟩, 0, 0xFF9F, 0xBF7D, 0xFF9FBF7D),
      (⟨2024, 6, 15, 13, 30, 45, 0⟩, 0, 0x58CF, 0x6BD6, 0x58CF6BD6),
      (⟨1980, 13, 1, 0, 0, 0, 0⟩, 0, 0x01A1, 0x0000, 0x01A10000),
      (⟨1980, 15, 1, 0, 0, 0, 0⟩, 0, 0x01E1, 0x0000, 0x01E10000),
      (⟨1980, 16, 1, 0, 0, 0, 0⟩, 0, 0x0201, 0x0000, 0x02010000),
      (⟨1980, 1, 32, 0, 0, 0, 0⟩, 0, 0x0020, 0x0000, 0x00200000),
      (⟨1980, 2, 32, 0, 0, 0, 0⟩, 0, 0x0060, 0x0000, 0x00600000),
      (⟨1980, 1, 33, 0, 0, 0, 0⟩, 0, 0x0021, 0x0000, 0x00210000)]
    ++ [(⟨2108, 1, 1, 0, 0, 0, 0⟩, 0, 0x0021, 0x0000, 0x00210000),
      (⟨1979, 1, 1, 0, 0, 0, 0⟩, 0, 0xFE21, 0x0000, 0xFE210000),
      (⟨2235, 1, 1, 0, 0, 0, 0⟩, 0, 0xFE21, 0x0000, 0xFE210000),
      (⟨1980, 0, 0, 0, 0, 0, 0⟩, 0, 0x0000, 0x0000, 0x00000000),
      (⟨0, 0, 0, 0, 0, 0, 0⟩, 0, 0x8800, 0x0000, 0x88000000),
      (⟨65535, 65535, 65535, 65535, 65535, 65535, 65535⟩, 0, 0xFFFF, 0xFFFF, 0xFFFFFFFF),
      (⟨1980, 1, 1, 24, 0, 0, 0⟩, 0, 0x0021, 0xC000, 0x0021C000),
      (⟨1980, 1, 1, 31, 0, 0, 0⟩, 0, 0x0021, 0xF800, 0x0021F800),
      (⟨1980, 1, 1, 32, 0, 0, 0⟩, 0, 0x0021, 0x0000, 0x00210000)]
    ++ [(⟨1980, 1, 1, 0, 60, 0, 0⟩, 0, 0x0021, 0x0780, 0x00210780),
      (⟨1980, 1, 1, 0, 64, 0, 0⟩, 0, 0x0021, 0x0800, 0x00210800),
      (⟨1980, 1, 1, 0, 0, 1, 0⟩, 0, 0x0021, 0x0000, 0x00210000),
      (⟨1980, 1, 1, 0, 0, 58, 0⟩, 0, 0x0021, 0x001D, 0x0021001D),
      (⟨1980, 1, 1, 0, 0, 59, 0⟩, 0, 0x0021, 0x001D, 0x0021001D),
      (⟨1980, 1, 1, 0, 0, 60, 0⟩, 0, 0x0021, 0x001E, 0x0021001E),
      (⟨1980, 1, 1, 0, 0, 63, 0⟩, 0, 0x0021, 0x001F, 0x0021001F),
      (⟨1980, 1, 1, 0, 0, 64, 0⟩, 0, 0x0021, 0x0020, 0x00210020),
      (⟨1980, 1, 1, 0, 0, 0, 65535⟩, 0, 0x0021, 0x0000, 0x00210000)]

/-- 95_test_vectors.md, V-LOOSE-1 to V-LOOSE-12: fields, err, date, time, dt32. -/
def looseVectors : List (DateTimeFields × ErrBit × Word × Word × DWord) :=
  [(⟨1980, 1, 1, 0, 0, 0, 0⟩, 0, 0x0021, 0x0000, 0x00210000),
      (⟨2107, 12, 31, 23, 59, 59, 0⟩, 0, 0xFF9F, 0xBF7D, 0xFF9FBF7D),
      (⟨1979, 1, 1, 0, 0, 0, 0⟩, 1, 0x0000, 0x0000, 0x00000000),
      (⟨2108, 1, 1, 0, 0, 0, 0⟩, 1, 0x0000, 0x0000, 0x00000000),
      (⟨1980, 0, 1, 0, 0, 0, 0⟩, 1, 0x0000, 0x0000, 0x00000000),
      (⟨1980, 1, 0, 0, 0, 0, 0⟩, 1, 0x0000, 0x0000, 0x00000000),
      (⟨1980, 0, 0, 0, 0, 0, 0⟩, 1, 0x0000, 0x0000, 0x00000000),
      (⟨1980, 13, 1, 0, 0, 0, 0⟩, 0, 0x01A1, 0x0000, 0x01A10000),
      (⟨1980, 16, 1, 0, 0, 0, 0⟩, 0, 0x0201, 0x0000, 0x02010000)]
    ++ [(⟨1980, 1, 40, 0, 0, 0, 0⟩, 0, 0x0028, 0x0000, 0x00280000),
      (⟨1980, 1, 1, 24, 60, 60, 1000⟩, 0, 0x0021, 0xC79E, 0x0021C79E),
      (⟨2024, 6, 15, 13, 30, 45, 12345⟩, 0, 0x58CF, 0x6BD6, 0x58CF6BD6)]

/-- 95_test_vectors.md, V-STRICT-1 to V-STRICT-17: fields, err, date, time, dt32. -/
def strictVectors : List (DateTimeFields × ErrBit × Word × Word × DWord) :=
  [(⟨1980, 1, 1, 0, 0, 0, 0⟩, 0, 0x0021, 0x0000, 0x00210000),
      (⟨2107, 12, 31, 23, 59, 59, 999⟩, 0, 0xFF9F, 0xBF7D, 0xFF9FBF7D),
      (⟨2024, 6, 15, 13, 30, 45, 999⟩, 0, 0x58CF, 0x6BD6, 0x58CF6BD6),
      (⟨1979, 12, 31, 23, 59, 59, 0⟩, 1, 0x0000, 0x0000, 0x00000000),
      (⟨2108, 1, 1, 0, 0, 0, 0⟩, 1, 0x0000, 0x0000, 0x00000000),
      (⟨1980, 0, 1, 0, 0, 0, 0⟩, 1, 0x0000, 0x0000, 0x00000000),
      (⟨1980, 13, 1, 0, 0, 0, 0⟩, 1, 0x0000, 0x0000, 0x00000000),
      (⟨1980, 1, 0, 0, 0, 0, 0⟩, 1, 0x0000, 0x0000, 0x00000000),
      (⟨1980, 1, 32, 0, 0, 0, 0⟩, 1, 0x0000, 0x0000, 0x00000000)]
    ++ [(⟨1980, 1, 1, 24, 0, 0, 0⟩, 1, 0x0000, 0x0000, 0x00000000),
      (⟨1980, 1, 1, 0, 60, 0, 0⟩, 1, 0x0000, 0x0000, 0x00000000),
      (⟨1980, 1, 1, 0, 0, 60, 0⟩, 1, 0x0000, 0x0000, 0x00000000),
      (⟨1980, 1, 1, 0, 0, 0, 1000⟩, 1, 0x0000, 0x0000, 0x00000000),
      (⟨2024, 2, 31, 0, 0, 0, 0⟩, 0, 0x585F, 0x0000, 0x585F0000),
      (⟨2023, 2, 29, 12, 0, 0, 0⟩, 0, 0x565D, 0x6000, 0x565D6000),
      (⟨2000, 2, 29, 23, 59, 58, 0⟩, 0, 0x285D, 0xBF7D, 0x285DBF7D),
      (⟨1980, 1, 1, 0, 0, 1, 0⟩, 0, 0x0021, 0x0000, 0x00210000)]

/-- 95_test_vectors.md, V-DEC-1 to V-DEC-12: date, time, decoded fields (err = 0 in each). -/
def decVectors : List (Word × Word × DateTimeFields) :=
  [(0x0000, 0x0000, ⟨1980, 0, 0, 0, 0, 0, 0⟩),
      (0xFFFF, 0xFFFF, ⟨2107, 15, 31, 31, 63, 62, 0⟩),
      (0x0021, 0x0000, ⟨1980, 1, 1, 0, 0, 0, 0⟩),
      (0x58CF, 0x6BD6, ⟨2024, 6, 15, 13, 30, 44, 0⟩),
      (0xFF9F, 0xBF7D, ⟨2107, 12, 31, 23, 59, 58, 0⟩),
      (0x01A1, 0xC000, ⟨1980, 13, 1, 24, 0, 0, 0⟩)]
    ++ [(0x8000, 0x0001, ⟨2044, 0, 0, 0, 0, 2, 0⟩),
      (0x0200, 0x0800, ⟨1981, 0, 0, 1, 0, 0, 0⟩),
      (0x001F, 0x07E0, ⟨1980, 0, 31, 0, 63, 0, 0⟩),
      (0x01E0, 0xF81F, ⟨1980, 15, 0, 31, 0, 62, 0⟩),
      (0xFE21, 0x0000, ⟨2107, 1, 1, 0, 0, 0, 0⟩),
      (0x0201, 0x0000, ⟨1981, 0, 1, 0, 0, 0, 0⟩)]

/-! ## The spec's vectors, one theorem an operation -/

theorem test_encRaw_vectors : encodesAs .encRaw rawVectors = true := by decide

theorem test_encLoose_vectors : encodesAs .encLoose looseVectors = true := by decide

theorem test_encStrict_vectors : encodesAs .encStrict strictVectors = true := by decide

theorem test_dec_vectors :
    (decVectors.all fun r => outputs (exec (.dec r.1 r.2.1) State.reset) == some (decOut r.2.2)) = true := by decide

/-! ## One whole step an operation, from the port encodings of 95_test_vectors.md section 3 -/

/-- P1 T3: the step presents the vector, consumes it from the schedule and drives every output port. -/
theorem test_encStrict_step :
    answer (step (before ⟨0b00#2, 0x07E8, 0x0006, 0x000F, 0x000D, 0x001E, 0x002C, 0x0000, 0x0000, 0x0000⟩))
      = some ⟨⟨0b00#2, 0x07E8, 0x0006, 0x000F, 0x000D, 0x001E, 0x002C, 0x0000, 0x0000, 0x0000⟩,
          encOut 0 0x58CF 0x6BD6 0x58CF6BD6, []⟩ := by decide

/-- P2 T2: month 16 aliases into the year offset. -/
theorem test_encLoose_step :
    outputs (step (before ⟨0b01#2, 0x07BC, 0x0010, 0x0001, 0x0000, 0x0000, 0x0000, 0x0000, 0x0000, 0x0000⟩))
      = some (encOut 0 0x0201 0x0000 0x02010000) := by decide

/-- P5 T3: the words of P5 T1 come back. -/
theorem test_encRaw_step :
    outputs (step (before ⟨0b10#2, 0x083B, 0x000F, 0x001F, 0x001F, 0x003F, 0x003E, 0x0000, 0x0000, 0x0000⟩))
      = some (encOut 0 0xFFFF 0xFFFF 0xFFFFFFFF) := by decide

/-- P1 T2: second 45 comes back as 44. -/
theorem test_dec_step :
    outputs (step (before ⟨0b11#2, 0x0000, 0x0000, 0x0000, 0x0000, 0x0000, 0x0000, 0x0000, 0x58CF, 0x6BD6⟩))
      = some (decOut ⟨2024, 6, 15, 13, 30, 44, 0⟩) := by decide

/-! ## Decoding: `op` codes of opcode_table.json and ports laid out bit by bit (notes/assumptions/5.md) -/

/-- P1 T1's ports, the highest (time_i) written first, then `op` = 00. -/
theorem test_decode_encStrict :
    decodeNumber (BitVec.toNat (0x0000#16 ++ 0x0000#16 ++ 0x01F4#16 ++ 0x002D#16 ++ 0x001E#16 ++ 0x000D#16 ++ 0x000F#16
      ++ 0x0006#16 ++ 0x07E8#16 ++ 0b00#2)) = .ok (.encStrict ⟨2024, 6, 15, 13, 30, 45, 500⟩) := by decide

/-- P2 T2's ports, then `op` = 01. -/
theorem test_decode_encLoose :
    decodeNumber (BitVec.toNat (0x0000#16 ++ 0x0000#16 ++ 0x0000#16 ++ 0x0000#16 ++ 0x0000#16 ++ 0x0000#16 ++ 0x0001#16
      ++ 0x0010#16 ++ 0x07BC#16 ++ 0b01#2)) = .ok (.encLoose ⟨1980, 16, 1, 0, 0, 0, 0⟩) := by decide

/-- P3 1b's ports, then `op` = 10. -/
theorem test_decode_encRaw :
    decodeNumber (BitVec.toNat (0x0000#16 ++ 0x0000#16 ++ 0x0000#16 ++ 0x0000#16 ++ 0x0000#16 ++ 0x0000#16 ++ 0x0001#16
      ++ 0x0001#16 ++ 0x07BB#16 ++ 0b10#2)) = .ok (.encRaw ⟨1979, 1, 1, 0, 0, 0, 0⟩) := by decide

/-- P1 T2's ports, then `op` = 11. -/
theorem test_decode_dec :
    decodeNumber (BitVec.toNat (0x6BD6#16 ++ 0x58CF#16 ++ 0x0000#16 ++ 0x0000#16 ++ 0x0000#16 ++ 0x0000#16 ++ 0x0000#16
      ++ 0x0000#16 ++ 0x0000#16 ++ 0b11#2)) = .ok (.dec 0x58CF 0x6BD6) := by decide

/-- The table's four rows, their other bits 0, as the host reads them. -/
theorem test_decode_table_rows :
    decodeTableWord 8 0 = some (.encStrict ⟨0, 0, 0, 0, 0, 0, 0⟩) ∧ decodeTableWord 8 1 = some (.encLoose ⟨0, 0, 0, 0, 0, 0, 0⟩)
      ∧ decodeTableWord 8 2 = some (.encRaw ⟨0, 0, 0, 0, 0, 0, 0⟩) ∧ decodeTableWord 8 3 = some (.dec 0 0) := by decide

/-- The table's ENC.RAW row placed after reset runs first: V-RAW-14. -/
theorem test_placed_row_runs_first :
    outputs (step (State.reset.withFetchWord 8 2)) = some (encOut 0 0x8800 0x0000 0x88000000) := by decide

/-! ## The well-formedness checks, each with a term it refuses -/

/-- The decimal literal 0. -/
def zeroOperand : Literal := .decimal [0]

theorem test_vectorFits_refuses : vectorFits (2 ^ 146) = false ∧ vectorFits (2 ^ 146 - 1) = true := by decide

/-- 65536 is outside 0..65535 (R68), in either base; 0xFFFF is the highest. -/
theorem test_inRange_refuses :
    (Literal.decimal [6, 5, 5, 3, 6]).inRange = false ∧ (Literal.hexadecimal [1, 0, 0, 0, 0]).inRange = false
      ∧ (Literal.hexadecimal [15, 15, 15, 15]).inRange = true := by decide

theorem test_hasDigits_refuses :
    (Literal.decimal []).hasDigits = false ∧ (Literal.hexadecimal []).hasDigits = false ∧ zeroOperand.hasDigits = true := by
  decide

/-- R68: "Every operand is required." -/
theorem test_hasEveryOperand_refuses :
    (AsmLine.mk .dec [zeroOperand]).hasEveryOperand = false
      ∧ (AsmLine.mk .enc (List.replicate 8 zeroOperand)).hasEveryOperand = false
      ∧ (AsmLine.mk .enc (List.replicate 7 zeroOperand)).hasEveryOperand = true := by decide

theorem test_wellFormed_refuses :
    (AsmLine.mk .dec [zeroOperand, .decimal [6, 5, 5, 3, 6]]).wellFormed = false
      ∧ (AsmLine.mk .dec [zeroOperand]).wellFormed = false ∧ (AsmLine.mk .dec [zeroOperand, .decimal []]).wellFormed = false
      ∧ (AsmLine.mk .dec [zeroOperand, zeroOperand]).wellFormed = true := by decide

/-- The transcriber rejects by name. -/
theorem test_transcribe_rejects_by_name :
    transcribe ⟨.dec, [zeroOperand]⟩ = .error .wrongOperandCount
      ∧ transcribe ⟨.dec, [zeroOperand, .decimal []]⟩ = .error .emptyLiteral
      ∧ transcribe ⟨.dec, [zeroOperand, .decimal [6, 5, 5, 3, 6]]⟩ = .error .operandOutOfRange
      ∧ decodeNumber (2 ^ 146) = .error .vectorTooWide := by decide

/-- V-DEC-4 `DEC 0x58CF, 0x6BD6`, and S1's line under the pseudo-instruction (R69). -/
theorem test_transcribe_lines :
    transcribe ⟨.dec, [.hexadecimal [5, 8, 12, 15], .hexadecimal [6, 11, 13, 6]]⟩ = .ok (.dec 0x58CF 0x6BD6)
      ∧ transcribe ⟨.enc, [.decimal [1, 9, 8, 0], .decimal [1], .decimal [1], zeroOperand, zeroOperand, zeroOperand,
          zeroOperand]⟩ = .ok (.encStrict ⟨1980, 1, 1, 0, 0, 0, 0⟩) := by decide

/-! ## The notation of R68, against the lines of 95_test_vectors.md -/

/-- P5 T3's and V-DEC-4's lines, written and read. -/
theorem test_line_text :
    (Instr.encRaw ⟨2107, 15, 31, 31, 63, 62, 0⟩).line.text = "ENC.RAW 2107, 15, 31, 31, 63, 62, 0".toList
      ∧ (Instr.dec 0x58CF 0x6BD6).line.text = "DEC 0x58CF, 0x6BD6".toList
      ∧ assemble "ENC.LOOSE 2024, 6, 15, 13, 30, 45, 12345".toList = .ok (.encLoose ⟨2024, 6, 15, 13, 30, 45, 12345⟩)
      ∧ assemble "DEC 0x58CF, 0x6BD6".toList = .ok (.dec 0x58CF 0x6BD6) := by decide

/-- Lines that name no transaction are rejected by name. -/
theorem test_assemble_rejects_by_name :
    assemble "NOP 1, 2".toList = .error .unknownMnemonic ∧ assemble "DEC 1, -1".toList = .error .notALiteral
      ∧ assemble "DEC 1, ".toList = .error .emptyLiteral ∧ assemble "DEC".toList = .error .wrongOperandCount
      ∧ assemble "DEC 65536, 0".toList = .error .operandOutOfRange := by decide

/-- P1 T2's encoding line. -/
theorem test_vector_text :
    (encode (.dec 0x58CF 0x6BD6)).text
      = "op=11 year=0x0000 month=0x0000 day=0x0000 hour=0x0000 minute=0x0000 second=0x0000 ms=0x0000".toList
        ++ " date_i=0x58CF time_i=0x6BD6".toList := by decide +kernel

/-- P1 T1's and T2's results. -/
theorem test_result_text :
    resultText (.encStrict ⟨2024, 6, 15, 13, 30, 45, 500⟩) (encOut 0 0x58CF 0x6BD6 0x58CF6BD6)
        = "-> err=0 date=0x58CF time=0x6BD6 dt32=0x58CF6BD6".toList
      ∧ resultText (.dec 0x58CF 0x6BD6) (decOut ⟨2024, 6, 15, 13, 30, 44, 0⟩)
        = "-> err=0 y=2024 mo=6 d=15 h=13 mi=30 s=44 ms=0".toList := by decide +kernel

/-! ## Instances -/

/-- Two instances taking turns 1, 0, 1: each ends with its own vectors' outputs, S4 and V-DEC-8 among them. -/
theorem test_instances_take_turns :
    (match runInterleaved [1, 0, 1] [before ⟨0b00#2, 2108, 1, 1, 0, 0, 0, 0, 0, 0⟩,
        { State.reset with pending := [⟨0b10#2, 1980, 1, 1, 0, 0, 0, 0, 0, 0⟩, ⟨0b11#2, 0, 0, 0, 0, 0, 0, 0, 0x0200, 0x0800⟩] }] with
      | .next sys => sys.map State.out
      | .fault _ => []
      | .refused _ => []) = [encOut 1 0 0 0, decOut ⟨1981, 0, 0, 1, 0, 0, 0⟩] := by decide

/-! ## Witnesses: for every statement with hypotheses, and each of its clauses, an input that meets them -/

/-- The least and the greatest natural fields, and the ones at the edge of what fits. -/
def leastNatural : DateTimeFields := ⟨1980, 1, 1, 0, 0, 0, 0⟩
def greatestNatural : DateTimeFields := ⟨2107, 12, 31, 23, 59, 59, 999⟩
def greatestFitting : DateTimeFields := ⟨2107, 15, 31, 31, 63, 63, 65535⟩

theorem witness_StepRunsTheDecodedInstruction :
    (before ⟨3, 0, 0, 0, 0, 0, 0, 0, 5, 6⟩).pending = ⟨3, 0, 0, 0, 0, 0, 0, 0, 5, 6⟩ :: []
      ∧ decode ⟨3, 0, 0, 0, 0, 0, 0, 0, 5, 6⟩ = .dec 5 6
      ∧ State.reset.pending = [] ∧ decode State.reset.inp = .encStrict ⟨0, 0, 0, 0, 0, 0, 0⟩ := by decide

theorem witness_OperationSelectMap :
    (⟨0b00#2, 1, 2, 3, 4, 5, 6, 7, 8, 9⟩ : Inputs).op = 0b00#2 ∧ (⟨0b01#2, 1, 2, 3, 4, 5, 6, 7, 8, 9⟩ : Inputs).op = 0b01#2
      ∧ (⟨0b10#2, 1, 2, 3, 4, 5, 6, 7, 8, 9⟩ : Inputs).op = 0b10#2
      ∧ (⟨0b11#2, 1, 2, 3, 4, 5, 6, 7, 8, 9⟩ : Inputs).op = 0b11#2 := by decide

/-- The hypotheses of UnreadPortsHaveNoEffect, for two vectors. -/
abbrev ReadPortsAgree (v v' : Inputs) : Prop :=
  v.op = v'.op
    ∧ (v.op ≠ 0b11#2 → v.year = v'.year ∧ v.month = v'.month ∧ v.day = v'.day ∧ v.hour = v'.hour
      ∧ v.minute = v'.minute ∧ v.second = v'.second)
    ∧ (v.op = 0b00#2 → v.ms = v'.ms) ∧ (v.op = 0b11#2 → v.date_i = v'.date_i ∧ v.time_i = v'.time_i)

theorem witness_UnreadPortsHaveNoEffect :
    ([(⟨0, 1980, 1, 1, 0, 0, 0, 7, 8, 9⟩, ⟨0, 1980, 1, 1, 0, 0, 0, 7, 3, 4⟩),
        (⟨1, 1980, 1, 1, 0, 0, 0, 7, 8, 9⟩, ⟨1, 1980, 1, 1, 0, 0, 0, 65535, 3, 4⟩),
        (⟨2, 1980, 1, 1, 0, 0, 0, 7, 8, 9⟩, ⟨2, 1980, 1, 1, 0, 0, 0, 0, 3, 4⟩),
        (⟨3, 1, 2, 3, 4, 5, 6, 7, 8, 9⟩, ⟨3, 0, 0, 0, 0, 0, 0, 0, 8, 9⟩)].all
      fun p : Inputs × Inputs => decide (ReadPortsAgree p.1 p.2)) = true
      ∧ (before ⟨3, 1, 2, 3, 4, 5, 6, 7, 8, 9⟩).pending = [⟨3, 1, 2, 3, 4, 5, 6, 7, 8, 9⟩] := by decide

theorem witness_UnwrittenOutputPortsAreZero :
    ((answer (step (before ⟨2, 0, 0, 0, 0, 0, 0, 0, 0, 0⟩))).map fun t => t.inp.op) = some 0b10#2
      ∧ ((answer (step (before ⟨3, 0, 0, 0, 0, 0, 0, 0, 0, 0⟩))).map fun t => t.inp.op) = some 0b11#2
      ∧ (outputs (step (before ⟨0, 0, 0, 0, 0, 0, 0, 0, 0, 0⟩))).map Outputs.err = some 1 := by decide

theorem witness_RepeatingAVectorRepeatsItsOutputs :
    step (before ⟨3, 0, 0, 0, 0, 0, 0, 0, 8, 9⟩)
      = .next ⟨⟨3, 0, 0, 0, 0, 0, 0, 0, 8, 9⟩, unpackOut 8 9, []⟩ := rfl

theorem witness_InstancesInAnyInterleavingShareNothing :
    [State.reset, before ⟨3, 0, 0, 0, 0, 0, 0, 0, 8, 9⟩][1]? = some (before ⟨3, 0, 0, 0, 0, 0, 0, 0, 8, 9⟩) := by decide

theorem witness_StepKeepsTheOutputVectorLegal :
    ([State.reset.out, encOut 1 0 0 0, encOut 0 0xFF9F 0xBF7D 0xFF9FBF7D, decOut ⟨2107, 15, 31, 31, 63, 62, 0⟩].all
      fun o => decide o.Legal) = true := by decide

/-- Both sides of R133's table, at the bounds of each contract. -/
theorem witness_ErrIsRaisedExactlyWhenTheContractFails :
    (outputs (step (before ⟨0, 2108, 1, 1, 0, 0, 0, 0, 0, 0⟩))).map Outputs.err = some 1
      ∧ (outputs (step (before ⟨1, 1979, 1, 1, 0, 0, 0, 0, 0, 0⟩))).map Outputs.err = some 1
      ∧ (outputs (step (before ⟨1, 2107, 13, 32, 24, 60, 60, 1000, 0, 0⟩))).map Outputs.err = some 0
      ∧ (outputs (step (before ⟨2, 2108, 0, 0, 0, 0, 0, 0, 0, 0⟩))).map Outputs.err = some 0 := by decide

/-- Each term of R88 and of R87 failing alone. -/
theorem witness_InvalidArgumentShowsErrAndNoData :
    ([⟨1979, 1, 1, 0, 0, 0, 0⟩, ⟨2108, 1, 1, 0, 0, 0, 0⟩, ⟨1980, 0, 1, 0, 0, 0, 0⟩, ⟨1980, 13, 1, 0, 0, 0, 0⟩,
        ⟨1980, 1, 0, 0, 0, 0, 0⟩, ⟨1980, 1, 32, 0, 0, 0, 0⟩, ⟨1980, 1, 1, 24, 0, 0, 0⟩, ⟨1980, 1, 1, 0, 60, 0, 0⟩,
        ⟨1980, 1, 1, 0, 0, 60, 0⟩, ⟨1980, 1, 1, 0, 0, 0, 1000⟩].all fun f => ! decide (DateTimeFields.Natural f)) = true
      ∧ ([⟨1979, 1, 1, 0, 0, 0, 0⟩, ⟨2108, 1, 1, 0, 0, 0, 0⟩, ⟨1980, 0, 1, 0, 0, 0, 0⟩, ⟨1980, 1, 0, 0, 0, 0, 0⟩].all
        fun f => ! decide (DateTimeFields.LooselyValid f)) = true := by decide

/-- Years 1979 and 2107 agree modulo 128; seconds 58 and 59 halve alike. -/
theorem witness_EncRawPacksAnyFields :
    (1979 : Word).toNat % 128 = (2107 : Word).toNat % 128 ∧ (58 : Word).toNat / 2 = (59 : Word).toNat / 2 := by decide

theorem witness_EncLoosePacksWhatItAccepts :
    leastNatural.LooselyValid ∧ DateTimeFields.LooselyValid ⟨2107, 65535, 65535, 65535, 65535, 65535, 65535⟩
      ∧ ¬ DateTimeFields.LooselyValid ⟨2108, 1, 1, 0, 0, 0, 0⟩ := by decide

theorem witness_EncStrictPacksNaturalFieldsExactly :
    leastNatural.Natural ∧ greatestNatural.Natural ∧ ¬ DateTimeFields.Natural ⟨2107, 12, 31, 23, 59, 59, 1000⟩ := by decide

theorem witness_OutOfRangeFieldsAliasUpwardByOr :
    (∃ f, Instr.encRaw ⟨0, 16, 32, 32, 64, 64, 0⟩ = .encRaw f)
      ∧ DateTimeFields.LooselyValid ⟨1980, 16, 32, 32, 64, 64, 0⟩ := ⟨⟨_, rfl⟩, by decide⟩

theorem witness_DateWordHoldsTheYearModulo128 :
    (15 : Word).toNat < 16 ∧ (31 : Word).toNat < 32 := by decide

theorem witness_TruncationDropsNothingOfNaturalFields : leastNatural.Natural ∧ greatestNatural.Natural := by decide

theorem witness_Dt32HoldsEveryFieldAtItsBits :
    greatestFitting.FitsBitFields ∧ DateTimeFields.FitsBitFields ⟨1980, 0, 0, 0, 0, 0, 0⟩ := by decide

theorem witness_OnlyEncStrictKeepsWordsInNaturalRange :
    (outputs (exec (.encStrict greatestNatural) State.reset)).map Outputs.err = some 0 := by decide

theorem witness_EncodeIsDeterministic :
    (∃ f, Instr.encLoose leastNatural = .encLoose f) ∧ ∃ f, Instr.encStrict leastNatural = .encStrict f :=
  ⟨⟨_, rfl⟩, ⟨_, rfl⟩⟩

theorem witness_MillisecondsNeverReachAWord :
    (0 : Word).toNat ≤ 999 ∧ (999 : Word).toNat ≤ 999 ∧ 1000 ≤ (1000 : Word).toNat := by decide

theorem witness_SecondsAreTruncatedToEven :
    (59 : Word).toNat ≤ 59 ∧ greatestNatural.LooselyValid ∧ greatestNatural.Natural
      ∧ (DateTimeFields.Natural ⟨1980, 1, 1, 0, 0, 0, 0⟩) ∧ DateTimeFields.Natural ⟨1980, 1, 1, 0, 0, 1, 0⟩
      ∧ DateTimeFields.Natural ⟨1980, 1, 1, 0, 0, 58, 0⟩ := by decide

theorem witness_YearBoundary :
    DateTimeFields.Natural ⟨1980, 12, 31, 23, 59, 59, 999⟩ := by decide

theorem witness_FieldsSurviveTheRoundTrip : leastNatural.Natural ∧ greatestNatural.Natural := by decide

theorem witness_RawRoundTripIsExactExactlyOnFittingFields :
    greatestFitting.FitsBitFields ∧ ¬ DateTimeFields.FitsBitFields ⟨2107, 15, 31, 31, 63, 64, 0⟩ := by decide

theorem witness_WordsSurviveTheRoundTrip :
    exec (.dec 0xFFFF 0xFFFF) State.reset = .next (State.reset.drive (unpackOut 0xFFFF 0xFFFF)) := rfl

/-- The greatest pair each contract accepts, and pairs one field past it. -/
theorem witness_ReencodingADecodedPairUnderAContract :
    ((0xFF9F#16).extractLsb' 5 4).toNat = 12 ∧ ((0xFF9F#16).extractLsb' 0 5).toNat = 31
      ∧ ((0xBF7D#16).extractLsb' 11 5).toNat = 23 ∧ ((0xBF7D#16).extractLsb' 5 6).toNat = 59
      ∧ ((0xBF7D#16).extractLsb' 0 5).toNat = 29 ∧ ((0xBF7E#16).extractLsb' 0 5).toNat = 30
      ∧ ((0x01A1#16).extractLsb' 5 4).toNat = 13 ∧ ((0x0001#16).extractLsb' 5 4).toNat = 0 := by decide

theorem witness_InputVectorsAreNumbersOf146Bits : 2 ^ 146 - 1 < 2 ^ 146 := by decide

theorem witness_DecodingIsTotalOnInputVectors : 2 ^ 146 - 1 < 2 ^ 146 ∧ 2 ^ 146 ≤ 2 ^ 146 := by decide

theorem witness_PlacedTableWordRunsNext :
    decodeTableWord 146 (2 ^ 146 - 1) = some (.dec 0xFFFF 0xFFFF) := by decide

theorem witness_TranscriberAcceptsExactlyWellFormedLines :
    [zeroOperand, Literal.hexadecimal [15, 15, 15, 15]].length = Mnemonic.dec.arity
      ∧ ∀ o ∈ [zeroOperand, Literal.hexadecimal [15, 15, 15, 15]], o.hasDigits = true ∧ o.value ≤ 65535 := by decide

theorem witness_WellFormedLinesReadBackFromTheirText :
    (AsmLine.mk .dec [zeroOperand, .hexadecimal [15, 15, 15, 15]]).wellFormed = true
      ∧ (AsmLine.mk .enc (List.replicate 7 zeroOperand)).wellFormed = true := by decide

end Sys2Proof.Tests
end

section
/-! PROOFS. The transaction model of 10_state.md. A step drives `instrOut (decode v)` for the vector `v` it presents
(`step_eq`), so each statement is a fact about `decode`, or about what the four instructions can put on the output
ports. -/

namespace Sys2Proof

/-! ## The decoder, one equation per `op` code (30_encoding.md R61) -/

theorem opCode_cases : ∀ op : OpCode, op = 0b00#2 ∨ op = 0b01#2 ∨ op = 0b10#2 ∨ op = 0b11#2 := by decide

theorem decode_of_op_encStrict {v : Inputs} (h : v.op = 0b00#2) : decode v = .encStrict v.fields := by
  simp [decode, h]

theorem decode_of_op_encLoose {v : Inputs} (h : v.op = 0b01#2) : decode v = .encLoose v.fields := by
  simp [decode, h]

theorem decode_of_op_encRaw {v : Inputs} (h : v.op = 0b10#2) : decode v = .encRaw v.fields := by
  simp [decode, h]

theorem decode_of_op_dec {v : Inputs} (h : v.op = 0b11#2) : decode v = .dec v.date_i v.time_i := by
  simp [decode, h]

/-- Only `op` = 11 selects DEC. -/
theorem decode_ne_dec {v : Inputs} (h : v.op ≠ 0b11#2) (date time : Word) : decode v ≠ .dec date time := by
  rcases opCode_cases v.op with hop | hop | hop | hop
  · simp [decode_of_op_encStrict hop]
  · simp [decode_of_op_encLoose hop]
  · simp [decode_of_op_encRaw hop]
  · exact absurd hop h

/-- Vectors that agree on the six packed fields have the same field record, but for `ms`. -/
theorem Inputs.fields_eq_of_packed_fields_eq {v v' : Inputs}
    (h : v.year = v'.year ∧ v.month = v'.month ∧ v.day = v'.day ∧ v.hour = v'.hour
      ∧ v.minute = v'.minute ∧ v.second = v'.second) :
    v.fields = { v'.fields with ms := v.ms } := by
  simp [Inputs.fields, h]

/-! ## The numbering of input vectors (notes/assumptions/5.md) -/

theorem Inputs.toNumber_lt (v : Inputs) : v.toNumber < 2 ^ 146 := by
  simp only [Inputs.toNumber]
  omega

/-- Each port is cut out at the place `toNumber` puts it. -/
theorem Inputs.ofNumber_toNumber (v : Inputs) : Inputs.ofNumber v.toNumber = v := by
  obtain ⟨op, year, month, day, hour, minute, second, ms, date, time⟩ := v
  simp only [Inputs.ofNumber, Inputs.toNumber, Inputs.mk.injEq, ← BitVec.toNat_inj, BitVec.toNat_ofNat]
  refine ⟨?_, ?_, ?_, ?_, ?_, ?_, ?_, ?_, ?_, ?_⟩ <;> omega

theorem Inputs.toNumber_ofNumber {w : Nat} (h : w < 2 ^ 146) : (Inputs.ofNumber w).toNumber = w := by
  simp only [Inputs.ofNumber, Inputs.toNumber, BitVec.toNat_ofNat]
  omega

end Sys2Proof

namespace Sys2Proof.Machine

/-! ## One step, from what is scheduled -/

/-- A step with a vector scheduled performs the instruction it decodes to, with that vector on the input ports. -/
theorem step_of_pending_cons {s : State} {v : Inputs} {rest : List Inputs} (h : s.pending = v :: rest) :
    step s = exec (decode v) { s with inp := v, pending := rest } := by
  rw [step, State.present_of_cons h, State.selected]

/-- A step with nothing scheduled performs the instruction of the vector that stands on the ports. -/
theorem step_of_pending_nil {s : State} (h : s.pending = []) : step s = exec (decode s.inp) s := by
  rw [step, State.present_of_nil h, State.selected]

/-! ## What the output ports can show -/

theorem wordsOut_fieldsZero (date time : Word) : (wordsOut date time).FieldsZero :=
  ⟨rfl, rfl, rfl, rfl, rfl, rfl, rfl⟩

theorem invalidArgumentOut_fieldsZero : invalidArgumentOut.FieldsZero :=
  ⟨rfl, rfl, rfl, rfl, rfl, rfl, rfl⟩

theorem invalidArgumentOut_wordsZero : invalidArgumentOut.WordsZero := ⟨rfl, rfl, rfl⟩

theorem unpackOut_wordsZero (date time : Word) : (unpackOut date time).WordsZero := ⟨rfl, rfl, rfl⟩

/-- Word ports at 0 meet the concatenation of 20_memory.md R43. -/
theorem dt32_of_wordsZero {o : Outputs} (h : o.WordsZero) : o.dt32_o = o.date_o ++ o.time_o := by
  obtain ⟨hdate, htime, hdt32⟩ := h
  rw [hdate, htime, hdt32]
  rfl

/-- What DEC shows stays in the ranges of 41_decode.md R112, for any two words. -/
theorem unpackOut_decodedRanges (date time : Word) : (unpackOut date time).DecodedRanges := by
  have hdate := date.isLt
  have htime := time.isLt
  simp only [Outputs.DecodedRanges, unpackOut, zext16_toNat, yoffField_eq, monField_eq, dayField_eq, hourField_eq,
    minField_eq, sec2Field_eq, Config.yearBase, Config.secondGranule, and_true]
  omega

/-- An instruction shows words, raises InvalidArgument, or is DEC and shows decoded fields. -/
theorem instrOut_cases (i : Instr) :
    (∃ date time, instrOut i = wordsOut date time) ∨ instrOut i = invalidArgumentOut
      ∨ ∃ date time, i = .dec date time ∧ instrOut i = unpackOut date time := by
  cases i with
  | encStrict f =>
    by_cases h : strict f = true
    · exact .inl ⟨_, _, if_pos h⟩
    · exact .inr (.inl (if_neg h))
  | encLoose f =>
    by_cases h : loose f = true
    · exact .inl ⟨_, _, if_pos h⟩
    · exact .inr (.inl (if_neg h))
  | encRaw f => exact .inl ⟨_, _, rfl⟩
  | dec date time => exact .inr (.inr ⟨date, time, rfl, rfl⟩)

/-- No encode operation drives a field port (10_state.md R28). -/
theorem instrOut_fieldsZero {i : Instr} (h : ∀ date time, i ≠ .dec date time) : (instrOut i).FieldsZero := by
  obtain ⟨date, time, hout⟩ | hout | ⟨date, time, hi, -⟩ := instrOut_cases i
  · exact hout ▸ wordsOut_fieldsZero date time
  · exact hout ▸ invalidArgumentOut_fieldsZero
  · exact absurd hi (h date time)

/-- `err` = 1 is shown by a raise alone (60_exceptions.md R132). -/
theorem instrOut_eq_invalidArgumentOut_of_err {i : Instr} (h : (instrOut i).err = 1) :
    instrOut i = invalidArgumentOut := by
  obtain ⟨date, time, hout⟩ | hout | ⟨date, time, -, hout⟩ := instrOut_cases i
  · simp [hout, wordsOut, errNone] at h
  · exact hout
  · simp [hout, unpackOut, errNone] at h

/-- The 32-bit value is the two words, whatever the instruction (20_memory.md R43). -/
theorem instrOut_dt32 (i : Instr) : (instrOut i).dt32_o = (instrOut i).date_o ++ (instrOut i).time_o := by
  obtain ⟨date, time, hout⟩ | hout | ⟨date, time, -, hout⟩ := instrOut_cases i
  · exact hout ▸ concatWords_eq date time
  · exact hout ▸ dt32_of_wordsZero invalidArgumentOut_wordsZero
  · exact hout ▸ dt32_of_wordsZero (unpackOut_wordsZero date time)

/-- Every instruction drives a legal output vector. -/
theorem instrOut_legal (i : Instr) : (instrOut i).Legal := by
  refine ⟨instrOut_dt32 i, fun herr => ?_, ?_⟩
  · rw [instrOut_eq_invalidArgumentOut_of_err herr]
    exact ⟨invalidArgumentOut_wordsZero, invalidArgumentOut_fieldsZero⟩
  · obtain ⟨date, time, hout⟩ | hout | ⟨date, time, -, hout⟩ := instrOut_cases i
    · exact .inl (hout ▸ wordsOut_fieldsZero date time)
    · exact .inl (hout ▸ invalidArgumentOut_fieldsZero)
    · exact .inr (hout ▸ ⟨unpackOut_wordsZero date time, unpackOut_decodedRanges date time⟩)

/-! ## The port an encode operation may leave unread -/

/-- ENC.LOOSE does not read `ms`. -/
theorem instrOut_encLoose_ms (f : DateTimeFields) (ms : Word) :
    instrOut (.encLoose { f with ms := ms }) = instrOut (.encLoose f) := rfl

/-- ENC.RAW does not read `ms`. -/
theorem instrOut_encRaw_ms (f : DateTimeFields) (ms : Word) :
    instrOut (.encRaw { f with ms := ms }) = instrOut (.encRaw f) := rfl

/-- Vectors that agree on `op` and on the ports the operation reads drive the same outputs (10_state.md R25). -/
theorem instrOut_decode_congr {v v' : Inputs} (hop : v.op = v'.op)
    (hpacked : v.op ≠ 0b11#2 → v.year = v'.year ∧ v.month = v'.month ∧ v.day = v'.day ∧ v.hour = v'.hour
      ∧ v.minute = v'.minute ∧ v.second = v'.second)
    (hms : v.op = 0b00#2 → v.ms = v'.ms)
    (hwords : v.op = 0b11#2 → v.date_i = v'.date_i ∧ v.time_i = v'.time_i) :
    instrOut (decode v) = instrOut (decode v') := by
  rcases opCode_cases v.op with h | h | h | h
  · have hfields : v.fields = v'.fields := by
      rw [Inputs.fields_eq_of_packed_fields_eq (hpacked (by simp [h])), hms h]
      rfl
    rw [decode_of_op_encStrict h, decode_of_op_encStrict (hop ▸ h), hfields]
  · rw [decode_of_op_encLoose h, decode_of_op_encLoose (hop ▸ h),
      Inputs.fields_eq_of_packed_fields_eq (hpacked (by simp [h])), instrOut_encLoose_ms]
  · rw [decode_of_op_encRaw h, decode_of_op_encRaw (hop ▸ h),
      Inputs.fields_eq_of_packed_fields_eq (hpacked (by simp [h])), instrOut_encRaw_ms]
  · obtain ⟨hdate, htime⟩ := hwords h
    rw [decode_of_op_dec h, decode_of_op_dec (hop ▸ h), hdate, htime]

/-! ## The obligations -/

/-- Settles O12: every instruction drives a legal vector, whatever the ports showed before. -/
theorem stepKeepsTheOutputVectorLegal : Obligations.StepKeepsTheOutputVectorLegal :=
  fun s _ => ⟨_, step_eq s, instrOut_legal _⟩

/-- Settles O2: the function is `instrOut` after `decode`. -/
theorem outputVectorIsATotalFunctionOfTheInputVector :
    Obligations.OutputVectorIsATotalFunctionOfTheInputVector :=
  ⟨fun v => instrOut (decode v), fun s => ⟨_, step_eq s, rfl⟩⟩

/-- Settles O5, by one case per `op` code (`instrOut_decode_congr`). -/
theorem unreadPortsHaveNoEffect : Obligations.UnreadPortsHaveNoEffect := by
  intro s s' v v' rest rest' hs hs' hop hpacked hms hwords
  refine ⟨_, _, step_eq s, step_eq s', ?_⟩
  simp only [State.drive_out, State.present_of_cons hs, State.present_of_cons hs']
  exact instrOut_decode_congr hop hpacked hms hwords

/-- Settles O6: no encode drives a field port, DEC drives no word port, and only a raise shows `err` = 1. -/
theorem unwrittenOutputPortsAreZero : Obligations.UnwrittenOutputPortsAreZero := by
  intro s
  refine ⟨_, step_eq s, fun henc => ?_, fun hdec => ?_, fun herr => ?_⟩
  · exact instrOut_fieldsZero (decode_ne_dec henc)
  · rw [State.drive_inp] at hdec
    rw [State.drive_out, decode_of_op_dec hdec]
    exact unpackOut_wordsZero _ _
  · exact instrOut_eq_invalidArgumentOut_of_err herr

/-- Settles O37: the two directions of the numbering. -/
theorem inputVectorsAreNumbersOf146Bits : Obligations.InputVectorsAreNumbersOf146Bits :=
  ⟨fun v => ⟨v.toNumber_lt, v.ofNumber_toNumber⟩, fun _ h => Inputs.toNumber_ofNumber h⟩

/-- Settles O1, by what the host has scheduled. -/
theorem stepRunsTheDecodedInstruction : Obligations.StepRunsTheDecodedInstruction := by
  intro s i
  refine ⟨fun v rest hs hi => ?_, fun hs hi => ?_⟩
  · exact hi ▸ step_of_pending_cons hs
  · exact hi ▸ step_of_pending_nil hs

/-- Settles O4: the output vector is `instrOut i`, and `State.drive` replaces `out` alone. -/
theorem instructionsChangeOnlyTheOutputPorts : Obligations.InstructionsChangeOnlyTheOutputPorts :=
  fun i s => ⟨instrOut i, exec_eq i s⟩

end Sys2Proof.Machine
end

section
/-! PROOFS. Memory and ordering (20_memory.md). CORE keeps nothing from one transaction to the next: a step with `v`
scheduled ends with `v` on the input ports and `instrOut (decode v)` on the output ports, whatever stood there before
(`step_scheduled`). A run through a schedule (`run_through_schedule`) therefore shows its last vector's outputs alone. -/

namespace Sys2Proof.Machine

/-! ## What a scheduled transaction leaves of the state before it -/

/-- Of the state before the step, only the rest of the schedule is in the answer (10_state.md R24). -/
theorem step_scheduled (s : State) (v : Inputs) (rest : List Inputs) :
    step { s with pending := v :: rest } = .next ⟨v, instrOut (decode v), rest⟩ :=
  step_eq _

/-- After a step the output ports show what the vector on the input ports gives. -/
theorem out_of_step {s t : State} (h : step s = .next t) : t.out = instrOut (decode t.inp) := by
  rw [step_next h, State.drive_out, State.drive_inp]

/-- A run through `earlier` and then `v` ends with `v`'s own transaction, from any state (20_memory.md R47): each
earlier transaction only takes its vector off the schedule. -/
theorem run_through_schedule (s : State) (earlier : List Inputs) (v : Inputs) (later : List Inputs) :
    core.run (earlier.length + 1) { s with pending := earlier ++ v :: later }
      = .next ⟨v, instrOut (decode v), later⟩ := by
  induction earlier generalizing s with
  | nil => exact Laws.run_succ_of_step core 0 (step_scheduled s v later)
  | cons e es ih =>
    calc core.run (es.length + 1 + 1) { s with pending := e :: (es ++ v :: later) }
      _ = core.run (es.length + 1) ⟨e, instrOut (decode e), es ++ v :: later⟩ :=
        Laws.run_succ_of_step core (es.length + 1) (step_scheduled s e (es ++ v :: later))
      _ = .next ⟨v, instrOut (decode v), later⟩ := ih ⟨e, instrOut (decode e), []⟩

/-! ## The obligations -/

/-- Settles O9, by induction over the earlier transactions (`run_through_schedule`). -/
theorem noTransactionObservesAnother : Obligations.NoTransactionObservesAnother :=
  fun s earlier v later =>
    ⟨_, _, run_through_schedule s earlier v later, step_scheduled State.reset v [], rfl, rfl, rfl⟩

/-- Settles O7: the OR, the concatenation and the two halves all follow from `instrOut_dt32`. -/
theorem dateWordAboveTimeWordInDt32 : Obligations.DateWordAboveTimeWordInDt32 := by
  intro s
  have hdt32 := instrOut_dt32 (decode s.present.inp)
  refine ⟨_, step_eq s, ?_, hdt32, ?_, ?_⟩
  · rw [State.drive_out, hdt32, BitVec.toNat_append]
  · rw [State.drive_out, hdt32, BitVec.extractLsb'_append_eq_left]
  · rw [State.drive_out, hdt32, BitVec.extractLsb'_append_eq_right]

/-- Settles O8: the repeated vector is the one whose outputs the first step left (`out_of_step`). -/
theorem repeatingAVectorRepeatsItsOutputs : Obligations.RepeatingAVectorRepeatsItsOutputs :=
  fun _ t h => ⟨_, step_scheduled t t.inp t.pending, (out_of_step h).symm, rfl⟩

end Sys2Proof.Machine
end

section
/-! PROOFS. The encoding of transactions (30_encoding.md R60 to R62, R67). A number below 2^146 stands for the vector
`Inputs.ofNumber` cuts out of it, and `decode` refuses no vector, so the only number `decodeNumber` rejects is one that
is too wide. -/

namespace Sys2Proof

/-! ## The decoder on numbers and table words -/

/-- The vector that presents an instruction decodes to it, whatever its operands. -/
@[simp] theorem decode_encode (i : Instr) : decode (encode i) = i := by
  cases i with
  | encStrict f => exact decode_of_op_encStrict rfl
  | encLoose f => exact decode_of_op_encLoose rfl
  | encRaw f => exact decode_of_op_encRaw rfl
  | dec date time => exact decode_of_op_dec rfl

theorem vectorFits_eq_true_iff (w : Nat) : vectorFits w = true ↔ w < 2 ^ 146 := decide_eq_true_iff

/-- A number of 146 bits decodes to what its vector decodes to. -/
theorem decodeNumber_of_lt {w : Nat} (h : w < 2 ^ 146) : decodeNumber w = .ok (decode (Inputs.ofNumber w)) :=
  if_pos ((vectorFits_eq_true_iff w).mpr h)

/-- A wider number is no vector and is rejected by name. -/
theorem decodeNumber_of_ge {w : Nat} (h : 2 ^ 146 ≤ w) : decodeNumber w = .error .vectorTooWide :=
  if_neg fun hfits => absurd ((vectorFits_eq_true_iff w).mp hfits) (Nat.not_lt.mpr h)

theorem encodeNumber_lt (i : Instr) : encodeNumber i < 2 ^ 146 := (encode i).toNumber_lt

theorem decodeNumber_encodeNumber (i : Instr) : decodeNumber (encodeNumber i) = .ok i := by
  rw [decodeNumber_of_lt (encodeNumber_lt i), encodeNumber, Inputs.ofNumber_toNumber, decode_encode]

/-- A number below the table word's width is the table word itself. -/
theorem tableVector_of_lt {nbits w : Nat} (h : w < 2 ^ nbits) : tableVector nbits w = w := Nat.mod_eq_of_lt h

theorem decodeTableWord_of_ok {nbits w : Nat} {i : Instr} (h : decodeNumber (tableVector nbits w) = .ok i) :
    decodeTableWord nbits w = some i := by
  simp only [decodeTableWord, h]

/-- Reading back needs no more of a table word than that it is as wide as a vector. -/
theorem decodeTableWord_encodeNumber {nbits : Nat} (hn : 146 ≤ nbits) (i : Instr) :
    decodeTableWord nbits (encodeNumber i) = some i := by
  have hfits : encodeNumber i < 2 ^ nbits :=
    (encodeNumber_lt i).trans_le (Nat.pow_le_pow_right (by omega) hn)
  apply decodeTableWord_of_ok
  rw [tableVector_of_lt hfits, decodeNumber_encodeNumber]

/-- What is read from a table word is what its vector decodes to. -/
theorem decode_of_decodeTableWord {nbits w : Nat} {i : Instr} (h : decodeTableWord nbits w = some i) :
    decode (Inputs.ofNumber (tableVector nbits w)) = i := by
  obtain hlt | hge := Nat.lt_or_ge (tableVector nbits w) (2 ^ 146)
  · rw [decodeTableWord_of_ok (decodeNumber_of_lt hlt)] at h
    exact Option.some.inj h
  · simp [decodeTableWord, decodeNumber_of_ge hge] at h

/-! ## The obligations -/

/-- Settles O36: no port is lost in the number (`Inputs.ofNumber_toNumber`), and both table widths hold it. -/
theorem decodeAndEncodeAgree : Obligations.DecodeAndEncodeAgree :=
  fun i => ⟨decode_encode i, decodeNumber_encodeNumber i, decodeTableWord_encodeNumber (by decide) i,
    decodeTableWord_encodeNumber (by decide) i⟩

/-- Settles O38, one clause on each side of 2^146. -/
theorem decodingIsTotalOnInputVectors : Obligations.DecodingIsTotalOnInputVectors :=
  fun _ => ⟨fun h => ⟨_, decodeNumber_of_lt h⟩, decodeNumber_of_ge⟩

/-- Settles O39: the vector is the one the placed word stands for. -/
theorem placedTableWordRunsNext : Obligations.PlacedTableWordRunsNext := by
  intro s nbits w i h
  have hv := decode_of_decodeTableWord h
  refine ⟨_, hv, ?_⟩
  rw [Machine.step_withFetchWord, hv]

/-- Settles O3, by the decoder's equation for each `op` code. -/
theorem operationSelectMap : Obligations.OperationSelectMap :=
  fun _ => ⟨decode_of_op_encStrict, decode_of_op_encLoose, decode_of_op_encRaw, decode_of_op_dec⟩

/-- Settles O40, by the decoder's equation for each sample's `op` code. -/
theorem sampleVectorsDecode : Obligations.SampleVectorsDecode :=
  ⟨decode_of_op_encStrict rfl, decode_of_op_encLoose rfl, decode_of_op_encRaw rfl, decode_of_op_dec rfl⟩

end Sys2Proof
end

section
/-! PROOFS. The assembler lines of 30_encoding.md R68 and R69. A line transcribes operand by operand
(`operandWords_of_valid`), and reading a line's text undoes each step of writing it: the mnemonic ends at the first
space, the operands at the commas, and no literal's text holds a space or a comma. -/

namespace Sys2Proof

/-! ## The transcriber -/

/-- An operand that R68 accepts: digits, and a value 0..65535. -/
abbrev Literal.Valid (l : Literal) : Prop := l.hasDigits = true ∧ l.value ≤ 65535

/-- The port value of an operand in range. -/
def Literal.portValue (l : Literal) : Word := BitVec.ofNat 16 l.value

theorem Literal.toWord_of_valid {l : Literal} (h : l.Valid) : l.toWord = .ok l.portValue := by
  obtain ⟨hdigits, hrange⟩ := h
  simp [Literal.toWord, Literal.inRange, Literal.portValue, hdigits, hrange]

theorem Literal.valid_of_toWord_eq_ok {l : Literal} {w : Word} (h : l.toWord = .ok w) : l.Valid := by
  by_cases hdigits : l.hasDigits = true
  · by_cases hrange : l.value ≤ 65535
    · exact ⟨hdigits, hrange⟩
    · simp [Literal.toWord, Literal.inRange, hdigits, hrange] at h
  · simp [Literal.toWord, hdigits] at h

/-- Valid operands are read one by one. -/
theorem operandWords_of_valid {ls : List Literal} (h : ∀ l ∈ ls, l.Valid) :
    operandWords ls = .ok (ls.map Literal.portValue) := by
  induction ls with
  | nil => rfl
  | cons l ls ih =>
    obtain ⟨hl, hls⟩ := List.forall_mem_cons.mp h
    simp only [operandWords, Literal.toWord_of_valid hl, ih hls, List.map_cons]

/-- Operands are read only if each of them is valid. -/
theorem valid_of_operandWords_eq_ok {ls : List Literal} {ws : List Word} (h : operandWords ls = .ok ws) :
    ∀ l ∈ ls, l.Valid := by
  induction ls generalizing ws with
  | nil => simp
  | cons l ls ih =>
    cases hw : l.toWord with
    | error e => simp [operandWords, hw] at h
    | ok w =>
      cases hws : operandWords ls with
      | error e => simp [operandWords, hw, hws] at h
      | ok ws' => exact List.forall_mem_cons.mpr ⟨Literal.valid_of_toWord_eq_ok hw, ih hws⟩

/-- What a mnemonic makes of its operands' port values. -/
def Mnemonic.instrOf (m : Mnemonic) (ws : List Word) : Except DecodeError Instr :=
  match m with
  | .enc => (fieldsOfOperands ws).map .encStrict
  | .encStrict => (fieldsOfOperands ws).map .encStrict
  | .encLoose => (fieldsOfOperands ws).map .encLoose
  | .encRaw => (fieldsOfOperands ws).map .encRaw
  | .dec => (wordsOfOperands ws).map (fun p => .dec p.1 p.2)

/-- Transcribing a line reads its operands, then its mnemonic. -/
theorem transcribe_eq (l : AsmLine) : transcribe l = (operandWords l.operands).bind l.mnemonic.instrOf := by
  unfold transcribe
  cases operandWords l.operands <;> rfl

theorem transcribe_of_operandWords {m : Mnemonic} {ls : List Literal} {ws : List Word}
    (h : operandWords ls = .ok ws) : transcribe ⟨m, ls⟩ = m.instrOf ws := by
  rw [transcribe_eq, h, Except.bind]

/-- Seven port values make a field record, and no other number of them does. -/
theorem exists_map_fieldsOfOperands_iff (mk : DateTimeFields → Instr) (ws : List Word) :
    (∃ i, (fieldsOfOperands ws).map mk = .ok i) ↔ ws.length = 7 := by
  unfold fieldsOfOperands
  split
  next => simp [Except.map]
  next hne =>
    simp only [Except.map, reduceCtorEq, exists_false, false_iff]
    intro hlen
    match ws, hlen with
    | [y, mo, d, h, mi, s, ms], _ => exact hne y mo d h mi s ms rfl

/-- Two port values make a word pair, and no other number of them does. -/
theorem exists_map_wordsOfOperands_iff (mk : Word × Word → Instr) (ws : List Word) :
    (∃ i, (wordsOfOperands ws).map mk = .ok i) ↔ ws.length = 2 := by
  unfold wordsOfOperands
  split
  next => simp [Except.map]
  next hne =>
    simp only [Except.map, reduceCtorEq, exists_false, false_iff]
    intro hlen
    match ws, hlen with
    | [d, t], _ => exact hne d t rfl

/-- A mnemonic accepts exactly as many port values as R68 gives it. -/
theorem exists_instrOf_iff (m : Mnemonic) (ws : List Word) : (∃ i, m.instrOf ws = .ok i) ↔ ws.length = m.arity := by
  cases m with
  | enc => exact exists_map_fieldsOfOperands_iff _ ws
  | encStrict => exact exists_map_fieldsOfOperands_iff _ ws
  | encLoose => exact exists_map_fieldsOfOperands_iff _ ws
  | encRaw => exact exists_map_fieldsOfOperands_iff _ ws
  | dec => exact exists_map_wordsOfOperands_iff _ ws

/-- A line transcribes exactly when it has its mnemonic's number of operands and each is valid. -/
theorem exists_transcribe_iff (m : Mnemonic) (ls : List Literal) :
    (∃ i, transcribe ⟨m, ls⟩ = .ok i) ↔ ls.length = m.arity ∧ ∀ o ∈ ls, o.Valid := by
  have hread (h : ∀ o ∈ ls, o.Valid) : (∃ i, transcribe ⟨m, ls⟩ = .ok i) ↔ ls.length = m.arity := by
    rw [transcribe_of_operandWords (operandWords_of_valid h), exists_instrOf_iff, List.length_map]
  have hvalid (h : ∃ i, transcribe ⟨m, ls⟩ = .ok i) : ∀ o ∈ ls, o.Valid := by
    obtain ⟨i, hi⟩ := h
    cases hws : operandWords ls with
    | error e => simp [transcribe_eq, hws, Except.bind] at hi
    | ok ws => exact valid_of_operandWords_eq_ok hws
  exact ⟨fun h => ⟨(hread (hvalid h)).mp h, hvalid h⟩, fun ⟨hlen, h⟩ => (hread h).mpr hlen⟩

theorem AsmLine.wellFormed_iff (l : AsmLine) :
    l.wellFormed = true ↔ l.operands.length = l.mnemonic.arity ∧ ∀ o ∈ l.operands, o.Valid := by
  simp [AsmLine.wellFormed, AsmLine.hasEveryOperand, Literal.inRange]

/-! ## The literals an instruction is written with -/

theorem shortDigits_ne_nil (base n v : Nat) [NeZero base] : shortDigits base (n + 1) v ≠ [] := by
  rw [shortDigits]
  split <;> simp

theorem toWord_decimalLiteral (w : Word) : (decimalLiteral w).toWord = .ok w := by
  have hw := w.isLt
  have hvalue : (decimalLiteral w).value = w.toNat := shortDigits_value 5 w.toNat (by omega)
  have hvalid : (decimalLiteral w).Valid :=
    ⟨by simp [decimalLiteral, Literal.hasDigits, shortDigits_ne_nil], by omega⟩
  rw [Literal.toWord_of_valid hvalid, Literal.portValue, hvalue, BitVec.ofNat_toNat, BitVec.setWidth_eq]

theorem toWord_hexLiteral (w : Word) : (hexLiteral w).toWord = .ok w := by
  have hw := w.isLt
  have hvalue : (hexLiteral w).value = w.toNat := fixedDigits_value 4 w.toNat (by omega)
  have hvalid : (hexLiteral w).Valid := ⟨by simp [hexLiteral, Literal.hasDigits, fixedDigits], by omega⟩
  rw [Literal.toWord_of_valid hvalid, Literal.portValue, hvalue, BitVec.ofNat_toNat, BitVec.setWidth_eq]

/-- The port values of literals that spell the words given are those words. -/
theorem operandWords_map {spell : Word → Literal} (h : ∀ w, (spell w).toWord = .ok w) (ws : List Word) :
    operandWords (ws.map spell) = .ok ws := by
  induction ws with
  | nil => rfl
  | cons w ws ih => simp only [List.map_cons, operandWords, h, ih]

theorem operandWords_fieldOperands (f : DateTimeFields) :
    operandWords (fieldOperands f) = .ok [f.year, f.month, f.day, f.hour, f.minute, f.second, f.ms] :=
  operandWords_map toWord_decimalLiteral _

/-- The line that names an instruction transcribes to it. -/
theorem transcribe_line (i : Instr) : transcribe i.line = .ok i := by
  cases i with
  | encStrict f => exact transcribe_of_operandWords (operandWords_fieldOperands f)
  | encLoose f => exact transcribe_of_operandWords (operandWords_fieldOperands f)
  | encRaw f => exact transcribe_of_operandWords (operandWords_fieldOperands f)
  | dec d t => exact transcribe_of_operandWords (operandWords_map toWord_hexLiteral [d, t])

theorem wellFormed_line (i : Instr) : i.line.wellFormed = true :=
  i.line.wellFormed_iff.mpr ((exists_transcribe_iff _ _).mp ⟨i, transcribe_line i⟩)

/-! ## Spaces and commas -/

/-- Characters that begin and end with something other than a space. -/
def Trimmed (cs : List Char) : Prop := (∃ c, cs.head? = some c ∧ c ≠ ' ') ∧ ∃ c, cs.getLast? = some c ∧ c ≠ ' '

theorem Trimmed.ne_nil {cs : List Char} (h : Trimmed cs) : cs ≠ [] := by
  rintro rfl
  simp [Trimmed] at h

theorem trimmed_of_no_space {cs : List Char} (hne : cs ≠ []) (h : ' ' ∉ cs) : Trimmed cs :=
  ⟨⟨_, List.head?_eq_some_head hne, ne_of_mem_of_not_mem (List.head_mem hne) h⟩,
    ⟨_, List.getLast?_eq_some_getLast hne, ne_of_mem_of_not_mem (List.getLast_mem hne) h⟩⟩

/-- What stands between trimmed ends does not matter. -/
theorem Trimmed.append {p q : List Char} (hp : Trimmed p) (hq : Trimmed q) (mid : List Char) :
    Trimmed (p ++ (mid ++ q)) := by
  obtain ⟨⟨c, hc, hcs⟩, -⟩ := hp
  obtain ⟨-, d, hd, hds⟩ := hq
  exact ⟨⟨c, by simp [hc], hcs⟩, d, by simp [hd], hds⟩

theorem dropWhile_space_of_head? {cs : List Char} {c : Char} (h : cs.head? = some c) (hc : c ≠ ' ') :
    cs.dropWhile (· == ' ') = cs := by
  cases cs with
  | nil => rfl
  | cons d ds =>
    obtain rfl : d = c := Option.some.inj h
    exact List.dropWhile_cons_of_neg (by simpa using hc)

theorem trimSpaces_of_trimmed {cs : List Char} (h : Trimmed cs) : trimSpaces cs = cs := by
  obtain ⟨⟨c, hc, hcs⟩, d, hd, hds⟩ := h
  have hlast : cs.reverse.head? = some d := by rw [List.head?_reverse, hd]
  rw [trimSpaces, dropWhile_space_of_head? hc hcs, dropWhile_space_of_head? hlast hds, List.reverse_reverse]

/-- A space before trimmed characters is trimmed off. -/
theorem trimSpaces_space_cons {cs : List Char} (h : Trimmed cs) : trimSpaces (' ' :: cs) = cs :=
  trimSpaces_of_trimmed h

theorem splitAtCommas_comma_cons (cs : List Char) : splitAtCommas (',' :: cs) = [] :: splitAtCommas cs := rfl

/-- A character that is no comma joins the first part. -/
theorem splitAtCommas_cons {c : Char} (hc : c ≠ ',') {cs p : List Char} {parts : List (List Char)}
    (h : splitAtCommas cs = p :: parts) : splitAtCommas (c :: cs) = (c :: p) :: parts := by
  have hc' : (c == ',') = false := by simpa using hc
  simp only [splitAtCommas, h, hc']

/-- Characters without a comma join the first part. -/
theorem splitAtCommas_append {q : List Char} (hq : ',' ∉ q) {cs p : List Char} {parts : List (List Char)}
    (h : splitAtCommas cs = p :: parts) : splitAtCommas (q ++ cs) = (q ++ p) :: parts := by
  induction q with
  | nil => exact h
  | cons c q ih =>
    exact splitAtCommas_cons (List.ne_of_not_mem_cons hq).symm (ih (List.not_mem_of_not_mem_cons hq))

/-! ## The text of literals and operands -/

theorem digitsText_plain {base : Nat} (hb : base ≤ 16) (ds : List (Fin base)) :
    ∀ c ∈ ds.map (fun d => digitChar d.val), c ≠ ',' ∧ c ≠ ' ' ∧ c ≠ 'x' := by
  intro c hc
  obtain ⟨d, -, rfl⟩ := List.mem_map.mp hc
  exact digitChar_plain ⟨d.val, by omega⟩

/-- No character of a literal's text separates words or operands. -/
theorem Literal.text_plain (l : Literal) : ∀ c ∈ l.text, c ≠ ',' ∧ c ≠ ' ' := by
  intro c hc
  cases l with
  | decimal ds =>
    obtain ⟨hcomma, hspace, -⟩ := digitsText_plain (by decide) ds c hc
    exact ⟨hcomma, hspace⟩
  | hexadecimal ds =>
    obtain rfl | rfl | hc : c = '0' ∨ c = 'x' ∨ c ∈ ds.map (fun d => digitChar d.val) := by
      simpa only [Literal.text, List.mem_cons] using hc
    · decide
    · decide
    · obtain ⟨hcomma, hspace, -⟩ := digitsText_plain (by decide) ds c hc
      exact ⟨hcomma, hspace⟩

theorem Literal.comma_not_mem_text (l : Literal) : ',' ∉ l.text := fun h => (l.text_plain _ h).1 rfl

theorem Literal.text_trimmed {l : Literal} (h : l.hasDigits = true) : Trimmed l.text := by
  refine trimmed_of_no_space ?_ fun hspace => (l.text_plain _ hspace).2 rfl
  cases l with
  | decimal ds => simpa [Literal.hasDigits, Literal.text] using h
  | hexadecimal ds => simp [Literal.text]

/-- A literal is read back from its text: a decimal one holds no `x`, so it is not taken for a hexadecimal one. -/
theorem literalOfChars_text (l : Literal) : literalOfChars l.text = .ok l := by
  cases l with
  | decimal ds =>
    rw [Literal.text]
    unfold literalOfChars
    split
    next cs heq =>
      have hx : 'x' ∈ ds.map (fun d => digitChar d.val) := by simp [heq]
      exact absurd rfl (digitsText_plain (by decide) ds _ hx).2.2
    next => rw [digitsOfChars_map 10 (by decide)]; rfl
  | hexadecimal ds => simp only [Literal.text, literalOfChars, digitsOfChars_map 16 (by decide)]; rfl

theorem operandsText_singleton (l : Literal) : operandsText [l] = l.text := rfl

theorem operandsText_cons_cons (l l' : Literal) (ls : List Literal) :
    operandsText (l :: l' :: ls) = l.text ++ ',' :: ' ' :: operandsText (l' :: ls) := rfl

theorem operandsText_trimmed {l : Literal} {ls : List Literal} (h : ∀ o ∈ l :: ls, o.hasDigits = true) :
    Trimmed (operandsText (l :: ls)) := by
  obtain ⟨hl, hls⟩ := List.forall_mem_cons.mp h
  induction ls generalizing l with
  | nil => exact Literal.text_trimmed hl
  | cons l' ls ih =>
    obtain ⟨hl', hls'⟩ := List.forall_mem_cons.mp hls
    exact (Literal.text_trimmed hl).append (ih hls hl' hls') [',', ' ']

/-- Cut at its commas, the operands' text is each literal's text, with a space before all but the first. -/
theorem splitAtCommas_operandsText (l : Literal) (ls : List Literal) :
    splitAtCommas (operandsText (l :: ls)) = l.text :: ls.map (fun o => ' ' :: o.text) := by
  induction ls generalizing l with
  | nil => simpa [operandsText_singleton] using splitAtCommas_append l.comma_not_mem_text (cs := []) rfl
  | cons l' ls ih =>
    have htail : splitAtCommas (',' :: ' ' :: operandsText (l' :: ls))
        = [] :: (l' :: ls).map (fun o => ' ' :: o.text) := by
      rw [splitAtCommas_comma_cons, splitAtCommas_cons (by decide) (ih l')]
      rfl
    simpa [operandsText_cons_cons] using splitAtCommas_append l.comma_not_mem_text htail

theorem literalsOfChars_cons {p : List Char} {ps : List (List Char)} {l : Literal} {ls : List Literal}
    (hp : trimSpaces p = l.text) (hps : literalsOfChars ps = .ok ls) : literalsOfChars (p :: ps) = .ok (l :: ls) := by
  simp only [literalsOfChars, hp, literalOfChars_text, hps]

theorem literalsOfChars_spaced {ls : List Literal} (h : ∀ o ∈ ls, o.hasDigits = true) :
    literalsOfChars (ls.map (fun o => ' ' :: o.text)) = .ok ls := by
  induction ls with
  | nil => rfl
  | cons l ls ih =>
    obtain ⟨hl, hls⟩ := List.forall_mem_cons.mp h
    exact literalsOfChars_cons (trimSpaces_space_cons (Literal.text_trimmed hl)) (ih hls)

/-- Operands are read back from their text. -/
theorem literalsOfChars_operandsText {l : Literal} {ls : List Literal} (h : ∀ o ∈ l :: ls, o.hasDigits = true) :
    literalsOfChars (splitAtCommas (operandsText (l :: ls))) = .ok (l :: ls) := by
  obtain ⟨hl, hls⟩ := List.forall_mem_cons.mp h
  rw [splitAtCommas_operandsText]
  exact literalsOfChars_cons (trimSpaces_of_trimmed (Literal.text_trimmed hl)) (literalsOfChars_spaced hls)

/-! ## The text of lines -/

theorem Mnemonic.ofName_name (m : Mnemonic) : Mnemonic.ofName m.name = some m := by
  cases m <;> decide

theorem Mnemonic.name_plain (m : Mnemonic) : ∀ c ∈ m.name, (c != ' ') = true := by
  rw [← List.all_eq_true]
  cases m <;> decide

theorem Mnemonic.arity_pos (m : Mnemonic) : 0 < m.arity := by
  cases m <;> decide

/-- The mnemonic of a line's text is what stands before the first space. -/
theorem AsmLine.text_takeWhile (l : AsmLine) : l.text.takeWhile (· != ' ') = l.mnemonic.name := by
  rw [AsmLine.text, List.takeWhile_append_of_pos l.mnemonic.name_plain, List.takeWhile_cons_of_neg (by decide),
    List.append_nil]

theorem AsmLine.text_dropWhile (l : AsmLine) : l.text.dropWhile (· != ' ') = ' ' :: operandsText l.operands := by
  rw [AsmLine.text, List.dropWhile_append_of_pos l.mnemonic.name_plain, List.dropWhile_cons_of_neg (by decide)]

/-- A line is read as its mnemonic and, where characters follow, its operands. -/
theorem lineOfChars_of_operands {cs rest : List Char} {m : Mnemonic} {ls : List Literal}
    (hname : Mnemonic.ofName (cs.takeWhile (· != ' ')) = some m)
    (hrest : trimSpaces (cs.dropWhile (· != ' ')) = rest) (hne : rest ≠ [])
    (hls : literalsOfChars (splitAtCommas rest) = .ok ls) : lineOfChars cs = .ok ⟨m, ls⟩ := by
  simp only [lineOfChars, hname, hrest, hls]
  rfl

/-- A line with operands is read back from its text, if all of them have digits. -/
theorem lineOfChars_text {m : Mnemonic} {l : Literal} {ls : List Literal} (h : ∀ o ∈ l :: ls, o.hasDigits = true) :
    lineOfChars (AsmLine.text ⟨m, l :: ls⟩) = .ok ⟨m, l :: ls⟩ := by
  have htrim := operandsText_trimmed h
  refine lineOfChars_of_operands ?_ ?_ htrim.ne_nil (literalsOfChars_operandsText h)
  · rw [AsmLine.text_takeWhile, Mnemonic.ofName_name]
  · rw [AsmLine.text_dropWhile, trimSpaces_space_cons htrim]

theorem lineOfChars_text_of_wellFormed {l : AsmLine} (h : l.wellFormed = true) : lineOfChars l.text = .ok l := by
  obtain ⟨hlen, hvalid⟩ := l.wellFormed_iff.mp h
  obtain ⟨m, ls⟩ := l
  cases ls with
  | nil => exact absurd hlen m.arity_pos.ne
  | cons o os => exact lineOfChars_text fun o' ho' => (hvalid o' ho').1

theorem assemble_of_lineOfChars {cs : List Char} {l : AsmLine} (h : lineOfChars cs = .ok l) :
    assemble cs = transcribe l := by
  simp only [assemble, h]

/-! ## The obligations -/

/-- Settles O44: the line is well formed, so its text reads back to it, and its literals spell the operands. -/
theorem everyInstructionAssemblesFromItsLine : Obligations.EveryInstructionAssemblesFromItsLine := by
  intro i
  refine ⟨transcribe_line i, ?_⟩
  rw [assemble_of_lineOfChars (lineOfChars_text_of_wellFormed (wellFormed_line i)), transcribe_line]

/-- Settles O43: reading undoes each step of writing (`lineOfChars_text`). -/
theorem wellFormedLinesReadBackFromTheirText : Obligations.WellFormedLinesReadBackFromTheirText :=
  fun _ h => lineOfChars_text_of_wellFormed h

/-- Settles O41: operand by operand, then by the mnemonic's arity. -/
theorem transcriberAcceptsExactlyWellFormedLines : Obligations.TranscriberAcceptsExactlyWellFormedLines :=
  fun l => exists_transcribe_iff l.mnemonic l.operands

/-- Settles O42: both mnemonics make the same of the operands' port values. -/
theorem pseudoEncIsEncStrict : Obligations.PseudoEncIsEncStrict := by
  intro operands
  rw [transcribe_eq, transcribe_eq]
  rfl

end Sys2Proof
end

section
/-! PROOFS. The fields of the DOS words (30_encoding.md R63 to R66). Where every field fits its bit field, `packDate` and
`packTime` are mixed-radix sums, so dividing them again gives each field back. What ENC.STRICT accepts of a decoded pair
is a condition on each bit field on its own, so R66's counts are products of the fields' counts. -/

namespace Sys2Proof

theorem DateTimeFields.Natural.fitsBitFields {f : DateTimeFields} (h : f.Natural) : f.FitsBitFields := by
  omega

namespace Machine

/-! ## The bit fields of packed words -/

/-- Fields that fit come back out of the date word. -/
theorem packDate_bitFields {f : DateTimeFields} (h : f.FitsBitFields) :
    (packDate f.year f.month f.day).toNat / 512 = f.year.toNat - 1980
      ∧ (packDate f.year f.month f.day).toNat / 32 % 16 = f.month.toNat
      ∧ (packDate f.year f.month f.day).toNat % 32 = f.day.toNat := by
  obtain ⟨hy, hy', hmonth, hday, -⟩ := h
  rw [packDate_of_fits hy hy' hmonth hday]
  omega

/-- Fields that fit come back out of the time word, the second halved. -/
theorem packTime_bitFields {f : DateTimeFields} (h : f.FitsBitFields) :
    (packTime f.hour f.minute f.second).toNat / 2048 = f.hour.toNat
      ∧ (packTime f.hour f.minute f.second).toNat / 32 % 64 = f.minute.toNat
      ∧ (packTime f.hour f.minute f.second).toNat % 32 = f.second.toNat / 2 := by
  obtain ⟨-, -, -, -, hhour, hminute, hsecond⟩ := h
  rw [packTime_of_fits hhour hminute hsecond]
  omega

/-- A DOS date word's bit fields in arithmetic (30_encoding.md R63). -/
theorem dateWord_extract (w : Word) :
    (w.extractLsb' 9 7).toNat = w.toNat / 512 ∧ (w.extractLsb' 5 4).toNat = w.toNat / 32 % 16
      ∧ (w.extractLsb' 0 5).toNat = w.toNat % 32 := by
  have hw := w.isLt
  simp only [BitVec.extractLsb'_toNat, Nat.shiftRight_eq_div_pow, Nat.pow_zero, Nat.div_one, and_true]
  omega

/-- A DOS time word's bit fields in arithmetic (30_encoding.md R64). -/
theorem timeWord_extract (w : Word) :
    (w.extractLsb' 11 5).toNat = w.toNat / 2048 ∧ (w.extractLsb' 5 6).toNat = w.toNat / 32 % 64
      ∧ (w.extractLsb' 0 5).toNat = w.toNat % 32 := by
  have hw := w.isLt
  simp only [BitVec.extractLsb'_toNat, Nat.shiftRight_eq_div_pow, Nat.pow_zero, Nat.div_one, and_true]
  omega

/-- ENC.STRICT shows `err` = 0 exactly on natural fields. -/
theorem instrOut_encStrict_err_eq_zero_iff (f : DateTimeFields) : (instrOut (.encStrict f)).err = 0 ↔ f.Natural := by
  rw [← strict_eq_true_iff]
  cases h : strict f <;> simp [instrOut, h, wordsOut, invalidArgumentOut, errNone, errInvalidArgument]

theorem instrOut_encStrict_of_natural {f : DateTimeFields} (h : f.Natural) :
    instrOut (.encStrict f) = wordsOut (packDate f.year f.month f.day) (packTime f.hour f.minute f.second) :=
  if_pos ((strict_eq_true_iff f).mpr h)

/-! ## Decoded words that ENC.STRICT accepts -/

/-- The month and day bit fields of a date word are natural; every year offset is (30_encoding.md R66). -/
def dateWordInRange (d : Nat) : Bool := decide (1 ≤ d / 32 % 16 ∧ d / 32 % 16 ≤ 12) && decide (1 ≤ d % 32)

/-- The hour, minute and halved second of a time word are natural (30_encoding.md R66). -/
def timeWordInRange (t : Nat) : Bool :=
  (decide (t / 32 / 64 ≤ 23) && decide (t / 32 % 64 ≤ 59)) && decide (t % 32 ≤ 29)

theorem strictAcceptsDecoded_eq_true_iff_natural (date time : Word) :
    strictAcceptsDecoded date time = true ↔ (unpackOut date time).fields.Natural := by
  rw [← instrOut_encStrict_err_eq_zero_iff]
  simp only [strictAcceptsDecoded, exec_eq, State.drive_out, beq_iff_eq]
  rfl

/-- A decoded pair's fields are natural exactly when each word's bit fields are (41_decode.md R115). -/
theorem unpackOut_natural_iff (date time : Word) :
    (unpackOut date time).fields.Natural ↔ dateWordInRange date.toNat = true ∧ timeWordInRange time.toNat = true := by
  have hdate := date.isLt
  have htime := time.isLt
  have hms : (0 : Word).toNat = 0 := rfl
  simp only [DateTimeFields.Natural, Outputs.fields, unpackOut, zext16_toNat, yoffField_eq, monField_eq, dayField_eq,
    hourField_eq, minField_eq, sec2Field_eq, Config.yearBase, Config.secondGranule, dateWordInRange, timeWordInRange,
    Bool.and_eq_true, decide_eq_true_eq]
  omega

theorem strictAcceptsDecoded_eq (date time : Word) :
    strictAcceptsDecoded date time = (dateWordInRange date.toNat && timeWordInRange time.toNat) := by
  rw [Bool.eq_iff_iff, Bool.and_eq_true, strictAcceptsDecoded_eq_true_iff_natural, unpackOut_natural_iff]

/-! ## Counting by bit fields -/

/-- A condition on the quotient and one on the remainder are met by the product of their counts. -/
theorem countP_div_mod (p q : Nat → Bool) (a b : Nat) :
    (List.range (a * b)).countP (fun n => p (n / b) && q (n % b))
      = (List.range a).countP p * (List.range b).countP q := by
  induction a with
  | zero => simp
  | succ a ih =>
    have hblock : ((List.range b).map (a * b + ·)).countP (fun n => p (n / b) && q (n % b))
        = (List.range b).countP (fun r => p a && q r) := by
      rw [List.countP_map]
      refine List.countP_congr fun r hr => ?_
      have hrb : r < b := List.mem_range.mp hr
      have hdiv : (a * b + r) / b = a := Nat.div_eq_of_lt_le (by omega) (by rw [Nat.succ_mul]; omega)
      have hmod : (a * b + r) % b = r := by rw [Nat.mul_add_mod', Nat.mod_eq_of_lt hrb]
      simp only [Function.comp_apply, hdiv, hmod]
    rw [Nat.succ_mul, List.range_add, List.countP_append, ih, hblock, List.range_succ, List.countP_append,
      Nat.add_mul]
    cases hp : p a <;> simp [hp]

/-- 128 years of 12 months of 31 days (30_encoding.md R66). -/
theorem countP_dateWordInRange : (List.range 65536).countP dateWordInRange = 128 * 12 * 31 := by
  have hyear : (List.range 128).countP (fun _ => true) = 128 := by simp
  have hmonth : (List.range 16).countP (fun m => decide (1 ≤ m ∧ m ≤ 12)) = 12 := by decide
  have hday : (List.range 32).countP (fun d => decide (1 ≤ d)) = 31 := by decide
  have hmonths := countP_div_mod (fun _ => true) (fun m => decide (1 ≤ m ∧ m ≤ 12)) 128 16
  have hdays :=
    countP_div_mod (fun n => true && decide (1 ≤ n % 16 ∧ n % 16 ≤ 12)) (fun d => decide (1 ≤ d)) (128 * 16) 32
  rw [hmonths, hyear, hmonth, hday] at hdays
  exact hdays

/-- 24 hours of 60 minutes of 30 halved seconds (30_encoding.md R66). -/
theorem countP_timeWordInRange : (List.range 65536).countP timeWordInRange = 24 * 60 * 30 := by
  have hhour : (List.range 32).countP (fun h => decide (h ≤ 23)) = 24 := by decide
  have hminute : (List.range 64).countP (fun m => decide (m ≤ 59)) = 60 := by decide
  have hsec2 : (List.range 32).countP (fun s => decide (s ≤ 29)) = 30 := by decide
  have hminutes := countP_div_mod (fun h => decide (h ≤ 23)) (fun m => decide (m ≤ 59)) 32 64
  have hseconds :=
    countP_div_mod (fun n => decide (n / 64 ≤ 23) && decide (n % 64 ≤ 59)) (fun s => decide (s ≤ 29)) (32 * 64) 32
  rw [hminutes, hhour, hminute, hsec2] at hseconds
  exact hseconds

/-- A number of 16 bits is the value of its word. -/
theorem countP_words {p : Word → Bool} {q : Nat → Bool} (h : ∀ w : Word, p w = q w.toNat) :
    (List.range 65536).countP (fun n => p (BitVec.ofNat 16 n)) = (List.range 65536).countP q := by
  refine List.countP_congr fun n hn => ?_
  have hlt : n < 2 ^ 16 := List.mem_range.mp hn
  rw [h, BitVec.toNat_ofNat, Nat.mod_eq_of_lt hlt]

/-! ## The obligations -/

/-- Settles O23: the 32-bit value is the words side by side, and fields that fit come back out of them. -/
theorem dt32HoldsEveryFieldAtItsBits : Obligations.Dt32HoldsEveryFieldAtItsBits := by
  intro f s
  refine ⟨_, exec_eq _ s, ?_⟩
  rw [State.drive_out, instrOut_dt32]
  refine ⟨BitVec.extractLsb'_append_eq_of_le (by decide), BitVec.extractLsb'_append_eq_of_le (by decide),
    BitVec.extractLsb'_append_eq_of_le (by decide), BitVec.extractLsb'_append_eq_of_add_le (by decide),
    BitVec.extractLsb'_append_eq_of_add_le (by decide), BitVec.extractLsb'_append_eq_of_add_le (by decide),
    fun h => ?_⟩
  obtain ⟨hyear, hmonth, hday⟩ := packDate_bitFields h
  obtain ⟨hhour, hminute, hsecond⟩ := packTime_bitFields h
  simp only [dateWord_extract, timeWord_extract]
  exact ⟨hyear, hmonth, hday, hhour, hminute, hsecond⟩

/-- Settles O24: what ENC.STRICT accepts is natural, and natural fields come back out of the words. -/
theorem onlyEncStrictKeepsWordsInNaturalRange : Obligations.OnlyEncStrictKeepsWordsInNaturalRange := by
  refine ⟨fun f s => ⟨_, exec_eq _ s, fun herr => ?_⟩, fun s => ⟨_, exec_eq _ s, by rw [State.drive_out]; decide⟩,
    fun s => ⟨_, exec_eq _ s, by rw [State.drive_out]; decide⟩⟩
  have hnat : f.Natural := (instrOut_encStrict_err_eq_zero_iff f).mp herr
  obtain ⟨-, hmonth, hday⟩ := packDate_bitFields hnat.fitsBitFields
  obtain ⟨hhour, hminute, hsecond⟩ := packTime_bitFields hnat.fitsBitFields
  simp only [State.drive_out, instrOut_encStrict_of_natural hnat, wordsOut, hmonth, hday, hhour, hminute, hsecond]
  omega

/-- Settles O25: with the other word in range, the test is the counted word's own. -/
theorem countsOfWordsWithEveryFieldInRange : Obligations.CountsOfWordsWithEveryFieldInRange := by
  constructor
  · have hown (w : Word) : strictAcceptsDecoded w 0x0000 = dateWordInRange w.toNat := by
      rw [strictAcceptsDecoded_eq, show timeWordInRange (0x0000 : Word).toNat = true from rfl, Bool.and_true]
    exact (countP_words hown).trans countP_dateWordInRange
  · have hown (w : Word) : strictAcceptsDecoded 0x0021 w = timeWordInRange w.toNat := by
      rw [strictAcceptsDecoded_eq, show dateWordInRange (0x0021 : Word).toNat = true from rfl, Bool.true_and]
    exact (countP_words hown).trans countP_timeWordInRange

end Machine

end Sys2Proof
end

section
/-! PROOFS. The encode family (40_encode.md). On the fields its contract accepts, each encode operation drives ENC.RAW's
output vector (`instrOut_eq_encRaw`), and on any other it raises; so each statement is a fact about `packDate` and
`packTime`. Both words have one shape, two shifted fields and an unshifted one under an OR, and their bit fields are cut
out of it once (`or3_midField`, `or3_topField`). -/

namespace Sys2Proof.Machine

/-! ## What each encode operation drives -/

/-- An instruction's answer from the output vector it drives. -/
theorem exec_of_instrOut_eq {i : Instr} {o : Outputs} (h : instrOut i = o) (s : State) :
    exec i s = .next { s with out := o } :=
  h ▸ exec_eq i s

/-- Instructions that drive the same outputs answer alike. -/
theorem exec_congr {i j : Instr} (h : instrOut i = instrOut j) (s : State) : exec i s = exec j s := by
  rw [exec_eq, exec_eq, h]

theorem instrOut_encRaw (f : DateTimeFields) :
    instrOut (.encRaw f) = wordsOut (packDate f.year f.month f.day) (packTime f.hour f.minute f.second) := rfl

theorem instrOut_encLoose_of_looselyValid {f : DateTimeFields} (h : f.LooselyValid) :
    instrOut (.encLoose f) = instrOut (.encRaw f) :=
  if_pos ((loose_eq_true_iff f).mpr h)

theorem instrOut_encLoose_of_not_looselyValid {f : DateTimeFields} (h : ¬ f.LooselyValid) :
    instrOut (.encLoose f) = invalidArgumentOut :=
  if_neg (mt (loose_eq_true_iff f).mp h)

theorem instrOut_encStrict_of_not_natural {f : DateTimeFields} (h : ¬ f.Natural) :
    instrOut (.encStrict f) = invalidArgumentOut :=
  if_neg (mt (strict_eq_true_iff f).mp h)

/-- `i` encodes `f` under a contract that `f` meets (40_encode.md R89 to R91). -/
abbrev EncodesAccepted (i : Instr) (f : DateTimeFields) : Prop :=
  i = .encRaw f ∨ (i = .encLoose f ∧ f.LooselyValid) ∨ (i = .encStrict f ∧ f.Natural)

/-- What a contract accepts is packed as ENC.RAW packs it. -/
theorem instrOut_eq_encRaw {i : Instr} {f : DateTimeFields} (h : EncodesAccepted i f) :
    instrOut i = instrOut (.encRaw f) := by
  obtain rfl | ⟨rfl, hloose⟩ | ⟨rfl, hnat⟩ := h
  · rfl
  · exact instrOut_encLoose_of_looselyValid hloose
  · exact instrOut_encStrict_of_natural hnat

/-- The words' output vector, port by port. -/
theorem wordsOut_eq (date time : Word) :
    wordsOut date time = ⟨0, date, time, date ++ time, 0, 0, 0, 0, 0, 0, 0⟩ := by
  rw [wordsOut, concatWords_eq]
  rfl

/-- Two words side by side, as one number. -/
theorem append_eq_ofNat (date time : Word) : date ++ time = BitVec.ofNat 32 (date.toNat * 65536 + time.toNat) := by
  have hdate := date.isLt
  have htime := time.isLt
  have hor : date.toNat <<< 16 ||| time.toNat = date.toNat * 2 ^ 16 + time.toNat := by
    rw [Nat.shiftLeft_eq, mul_pow_or htime]
  apply BitVec.eq_of_toNat_eq
  rw [BitVec.toNat_append, hor, BitVec.toNat_ofNat]
  omega

/-! ## The packed words -/

/-- The date word is 40_encode.md R80's formula, cut to 16 bits. -/
theorem packDate_eq (year month day : Word) :
    packDate year month day
      = BitVec.ofNat 16 ((((year.toNat + 63556) % 65536) <<< 9) ||| (month.toNat <<< 5) ||| day.toNat) := by
  rw [packDate, trunc16, yearOffset_eq]

/-- The time word is 40_encode.md R80's formula, cut to 16 bits. -/
theorem packTime_eq (hour minute second : Word) :
    packTime hour minute second
      = BitVec.ofNat 16 ((hour.toNat <<< 11) ||| (minute.toNat <<< 5) ||| (second.toNat / 2)) := rfl

/-- In the year's range the formula's offset is the plain difference. -/
theorem packDate_of_range {year : Word} (lo : 1980 ≤ year.toNat) (hi : year.toNat ≤ 2107) (month day : Word) :
    packDate year month day = BitVec.ofNat 16 (((year.toNat - 1980) <<< 9) ||| (month.toNat <<< 5) ||| day.toNat) := by
  rw [packDate, trunc16, yearOffset_of_range lo hi]

/-- The year counts modulo 128 alone (40_encode.md R81). -/
theorem packDate_congr_year {year year' : Word} (h : year'.toNat % 128 = year.toNat % 128) (month day : Word) :
    packDate year' month day = packDate year month day := by
  have hoff : yearOffset year' % 2 ^ 7 = yearOffset year % 2 ^ 7 := by
    rw [yearOffset_eq, yearOffset_eq]
    omega
  apply BitVec.eq_of_toNat_eq
  rw [packDate_toNat, packDate_toNat, hoff]

/-- The second counts by its half alone (40_encode.md R82). -/
theorem packTime_congr_second {second second' : Word} (h : second'.toNat / 2 = second.toNat / 2) (hour minute : Word) :
    packTime hour minute second' = packTime hour minute second := by
  rw [packTime_eq, packTime_eq, h]

/-- Three values whose places lie in 16 bits give an OR in 16 bits. -/
theorem shifted_or3_lt {a b c j k : Nat} (ha : a * 2 ^ j < 2 ^ 16) (hb : b * 2 ^ k < 2 ^ 16) (hc : c < 2 ^ 16) :
    (a <<< j) ||| (b <<< k) ||| c < 2 ^ 16 := by
  rw [← Nat.shiftLeft_eq] at ha hb
  exact Nat.or_lt_two_pow (Nat.or_lt_two_pow ha hb) hc

/-! ## The bit fields of packed words: excess bits land upward by OR (40_encode.md R86) -/

/-- The middle field of width `w` holds its own low bits and the lowest field's excess. -/
theorem or3_midField (a b c w : Nat) :
    (a * 2 ^ (w + 5) ||| b * 2 ^ 5 ||| c) / 2 ^ 5 % 2 ^ w = b % 2 ^ w ||| c / 2 ^ 5 % 2 ^ w := by
  have htop : a * 2 ^ (w + 5) / 2 ^ 5 = a * 2 ^ w := by
    rw [Nat.pow_add, ← Nat.mul_assoc, Nat.mul_div_cancel _ (by decide)]
  rw [or3_div, or3_mod, htop, Nat.mul_mod_left, Nat.mul_div_cancel _ (by decide), Nat.zero_or]

/-- The highest field holds its own value and the excess of both fields below. -/
theorem or3_topField (a b c w : Nat) :
    (a * 2 ^ (w + 5) ||| b * 2 ^ 5 ||| c) / 2 ^ (w + 5) = a ||| b / 2 ^ w ||| c / 2 ^ (w + 5) := by
  have hmid : b * 2 ^ 5 / 2 ^ (w + 5) = b / 2 ^ w := by
    rw [Nat.pow_add, Nat.mul_div_mul_right _ _ (by decide)]
  rw [or3_div, hmid, Nat.mul_div_cancel _ (Nat.two_pow_pos _)]

theorem packDate_monthField (year month day : Word) :
    (packDate year month day).toNat / 32 % 16 = (month.toNat % 16 ||| day.toNat / 32 % 16) := by
  have hmonth : month.toNat % 2 ^ 11 % 2 ^ 4 = month.toNat % 16 := by omega
  rw [packDate_toNat, ← hmonth]
  exact or3_midField _ _ _ 4

theorem packDate_yearField (year month day : Word) :
    (packDate year month day).toNat / 512
      = (((year.toNat + 63556) % 128 ||| month.toNat / 16 % 128) ||| day.toNat / 512) := by
  have hyear : yearOffset year % 2 ^ 7 = (year.toNat + 63556) % 128 := by
    rw [yearOffset_eq]
    omega
  have hmonth : month.toNat % 2 ^ 11 / 2 ^ 4 = month.toNat / 16 % 128 := by omega
  rw [packDate_toNat, hyear, ← hmonth]
  exact or3_topField _ _ _ 4

theorem packTime_minuteField (hour minute second : Word) :
    (packTime hour minute second).toNat / 32 % 64 = (minute.toNat % 64 ||| second.toNat / 2 / 32 % 64) := by
  have hminute : minute.toNat % 2 ^ 11 % 2 ^ 6 = minute.toNat % 64 := by omega
  rw [packTime_toNat, ← hminute]
  exact or3_midField _ _ _ 6

theorem packTime_hourField (hour minute second : Word) :
    (packTime hour minute second).toNat / 2048
      = ((hour.toNat % 32 ||| minute.toNat / 64 % 32) ||| second.toNat / 2 / 2048) := by
  have hminute : minute.toNat % 2 ^ 11 / 2 ^ 6 = minute.toNat / 64 % 32 := by omega
  rw [packTime_toNat, ← hminute]
  exact or3_topField _ _ _ 6

/-- Month and day that stay in their fields leave the year's field to the year. -/
theorem packDate_yearField_of_lt (year : Word) {month day : Word} (hmonth : month.toNat < 16) (hday : day.toNat < 32) :
    (packDate year month day).toNat / 512 = (year.toNat + 63556) % 128 := by
  have hmonth' : month.toNat / 16 % 128 = 0 := by omega
  have hday' : day.toNat / 512 = 0 := by omega
  rw [packDate_yearField, hmonth', hday', Nat.or_zero, Nat.or_zero]

/-- A day that stays in its field leaves the month's field to the month. -/
theorem packDate_monthField_of_lt (year : Word) {month day : Word} (hmonth : month.toNat < 16) (hday : day.toNat < 32) :
    (packDate year month day).toNat / 32 % 16 = month.toNat := by
  have hday' : day.toNat / 32 % 16 = 0 := by omega
  rw [packDate_monthField, hday', Nat.or_zero, Nat.mod_eq_of_lt hmonth]

/-! ## Decoding packed words -/

/-- A decode vector shows a record's fields, the second rounded down to even (41_decode.md R113). -/
abbrev Outputs.GivesBack (o : Outputs) (f : DateTimeFields) : Prop :=
  o.year_o = f.year ∧ o.month_o = f.month ∧ o.day_o = f.day ∧ o.hour_o = f.hour ∧ o.minute_o = f.minute
    ∧ o.second_o.toNat = 2 * (f.second.toNat / 2)

/-- Fields that fit come back from their words. -/
theorem unpackOut_givesBack_of_fits {f : DateTimeFields} (h : f.FitsBitFields) :
    (unpackOut (packDate f.year f.month f.day) (packTime f.hour f.minute f.second)).GivesBack f := by
  obtain ⟨hyear, hmonth, hday⟩ := packDate_bitFields h
  obtain ⟨hhour, hminute, hsecond⟩ := packTime_bitFields h
  simp only [Outputs.GivesBack, unpackOut, ← BitVec.toNat_inj, zext16_toNat, yoffField_eq, monField_eq, dayField_eq,
    hourField_eq, minField_eq, sec2Field_eq, Config.yearBase, Config.secondGranule, hyear, hmonth, hday, hhour, hminute,
    hsecond]
  omega

/-- Whatever the words, the fields they show fit: decoded values stay in their ranges (41_decode.md R112). -/
theorem fitsBitFields_of_givesBack {date time : Word} {f : DateTimeFields} (h : (unpackOut date time).GivesBack f) :
    f.FitsBitFields := by
  obtain ⟨hlo, hhi, hmo, hd, hh, hmi, hs, -, -⟩ := unpackOut_decodedRanges date time
  obtain ⟨hyear, hmonth, hday, hhour, hminute, hsecond⟩ := h
  rw [hyear] at hlo hhi
  rw [hmonth] at hmo
  rw [hday] at hd
  rw [hhour] at hh
  rw [hminute] at hmi
  omega

/-! ## The contracts and `ms`, and the boundary years -/

/-- Within 0..999 the strict contract does not tell one `ms` from another. -/
theorem natural_ms_congr {f : DateTimeFields} {ms : Word} (hf : f.ms.toNat ≤ 999) (hms : ms.toNat ≤ 999) :
    f.Natural ↔ DateTimeFields.Natural { f with ms := ms } := by
  simp only [DateTimeFields.Natural, hf, hms]

/-- From 1000 on `ms` is not natural. -/
theorem not_natural_of_ms {f : DateTimeFields} (h : 1000 ≤ f.ms.toNat) : ¬ f.Natural := by
  omega

/-- ENC.STRICT within 0..999 does not let `ms` reach an output (40_encode.md R93). -/
theorem instrOut_encStrict_ms {f : DateTimeFields} {ms : Word} (hf : f.ms.toNat ≤ 999) (hms : ms.toNat ≤ 999) :
    instrOut (.encStrict f) = instrOut (.encStrict { f with ms := ms }) := by
  have hcongr := natural_ms_congr hf hms
  by_cases hnat : f.Natural
  · rw [instrOut_encStrict_of_natural hnat, instrOut_encStrict_of_natural (hcongr.mp hnat)]
  · rw [instrOut_encStrict_of_not_natural hnat, instrOut_encStrict_of_not_natural (mt hcongr.mpr hnat)]

/-- Natural fields give `err` = 0 and the year's offset in the date word's bits 15:9. -/
theorem instrOut_encStrict_yearOffset {f : DateTimeFields} {yoff : Nat} (h : f.Natural)
    (hyoff : f.year.toNat = 1980 + yoff) :
    (instrOut (.encStrict f)).err = 0 ∧ (instrOut (.encStrict f)).date_o.extractLsb' 9 7 = BitVec.ofNat 7 yoff := by
  refine ⟨(instrOut_encStrict_err_eq_zero_iff f).mpr h, BitVec.eq_of_toNat_eq ?_⟩
  obtain ⟨hyear, -, -⟩ := packDate_bitFields h.fitsBitFields
  simp only [instrOut_encStrict_of_natural h, wordsOut, dateWord_extract, BitVec.toNat_ofNat, hyear]
  omega

/-! ## The obligations -/

/-- Settles O33: fitting fields come back from their words, and DEC's ranges leave room for no others. -/
theorem rawRoundTripIsExactExactlyOnFittingFields : Obligations.RawRoundTripIsExactExactlyOnFittingFields :=
  fun f s s' => ⟨_, _, exec_eq (.encRaw f) s, exec_eq (.dec _ _) s', fitsBitFields_of_givesBack,
    unpackOut_givesBack_of_fits⟩

/-- Settles O16: the words are R80's formulas, and the year and the second reach them through `year mod 128` and
`second / 2` alone. -/
theorem encRawPacksAnyFields : Obligations.EncRawPacksAnyFields := by
  intro year month day hour minute second ms s
  refine ⟨exec_of_instrOut_eq ?_ s, fun year' h => exec_congr ?_ s, fun second' h => exec_congr ?_ s,
    fun ms' => exec_congr (instrOut_encRaw_ms ⟨year, month, day, hour, minute, second, ms⟩ ms') s,
    exec_of_instrOut_eq (by decide) s, exec_of_instrOut_eq (by decide) s⟩
  · rw [instrOut_encRaw, wordsOut_eq, packDate_eq, packTime_eq]
  · rw [instrOut_encRaw, instrOut_encRaw, packDate_congr_year h]
  · rw [instrOut_encRaw, instrOut_encRaw, packTime_congr_second h]

/-- Settles O17: on what `Loose` accepts the year offset does not wrap, and anything else raises. -/
theorem encLoosePacksWhatItAccepts : Obligations.EncLoosePacksWhatItAccepts := by
  intro year month day hour minute second ms s
  refine ⟨fun h => ?_, fun h => exec_of_instrOut_eq (instrOut_encLoose_of_not_looselyValid h) s⟩
  have hraw := instrOut_encLoose_of_looselyValid (f := ⟨year, month, day, hour, minute, second, ms⟩) h
  obtain ⟨hlo, hhi, -, -⟩ := h
  refine ⟨exec_of_instrOut_eq ?_ s, exec_congr hraw s⟩
  rw [hraw, instrOut_encRaw, wordsOut_eq, packDate_of_range hlo hhi, packTime_eq]

/-- Settles O18: natural fields fit their places, so each OR is a sum, and anything else raises. -/
theorem encStrictPacksNaturalFieldsExactly : Obligations.EncStrictPacksNaturalFieldsExactly := by
  intro year month day hour minute second ms s
  have hbounds : DateTimeFields.Natural ⟨year, month, day, hour, minute, second, ms⟩ ↔
      ((1980 ≤ year.toNat ∧ year.toNat ≤ 2107) ∧ (1 ≤ month.toNat ∧ month.toNat ≤ 12)
        ∧ (1 ≤ day.toNat ∧ day.toNat ≤ 31) ∧ hour.toNat ≤ 23 ∧ minute.toNat ≤ 59 ∧ second.toNat ≤ 59
        ∧ ms.toNat ≤ 999) := by
    simp only [and_assoc]
  rw [← hbounds]
  refine ⟨fun h => ?_, fun h => exec_of_instrOut_eq (instrOut_encStrict_of_not_natural h) s⟩
  have hraw := instrOut_eq_encRaw (.inr (.inr ⟨rfl, h⟩))
  obtain ⟨hlo, hhi, hmonth, hday, hhour, hminute, hsecond⟩ := h.fitsBitFields
  refine ⟨exec_of_instrOut_eq ?_ s, exec_congr hraw s⟩
  rw [hraw, instrOut_encRaw, wordsOut_eq, append_eq_ofNat, ← packDate_of_fits hlo hhi hmonth hday,
    ← packTime_of_fits hhour hminute hsecond, BitVec.ofNat_toNat, BitVec.ofNat_toNat, BitVec.setWidth_eq,
    BitVec.setWidth_eq]

/-- Settles O19: each field's contribution, then each bit field of the two words. -/
theorem outOfRangeFieldsAliasUpwardByOr : Obligations.OutOfRangeFieldsAliasUpwardByOr := by
  intro f s i h
  have hraw : instrOut i = instrOut (.encRaw f) := instrOut_eq_encRaw (h.imp_right .inl)
  refine ⟨_, exec_of_instrOut_eq (hraw.trans (instrOut_encRaw f)) s, rfl, ?_, ?_, packDate_mod_32 _ _ _,
    packDate_monthField _ _ _, packDate_yearField _ _ _, packTime_mod_32 _ _ _, packTime_minuteField _ _ _,
    packTime_hourField _ _ _⟩
  · have hday := Nat.mod_eq_of_lt f.day.isLt
    rw [← yearOffset_eq, hday, Nat.shiftLeft_eq, Nat.shiftLeft_eq]
    exact packDate_toNat _ _ _
  · have hsecond : f.second.toNat / 2 % 2 ^ 16 = f.second.toNat / 2 := by omega
    rw [hsecond, Nat.shiftLeft_eq, Nat.shiftLeft_eq]
    exact packTime_toNat _ _ _

/-- Settles O21: month and day that fit put nothing into bits 15:9. -/
theorem dateWordHoldsTheYearModulo128 : Obligations.DateWordHoldsTheYearModulo128 := by
  intro f s hmonth hday
  refine ⟨_, exec_of_instrOut_eq (instrOut_encRaw f) s, ?_⟩
  simp only [wordsOut, dateWord_extract, packDate_yearField_of_lt f.year hmonth hday,
    packDate_monthField_of_lt f.year hmonth hday, packDate_mod_32, Nat.mod_eq_of_lt hday, and_true]
  omega

/-- Settles O22: the formulas of natural fields are below 2^16, and the words are bounded as sums. -/
theorem truncationDropsNothingOfNaturalFields : Obligations.TruncationDropsNothingOfNaturalFields := by
  refine ⟨fun f s => ?_, fun s => ⟨_, exec_eq _ s, by rw [State.drive_out]; decide⟩⟩
  have hdate := congrArg BitVec.toNat (packDate_eq f.year f.month f.day)
  have htime := congrArg BitVec.toNat (packTime_eq f.hour f.minute f.second)
  rw [BitVec.toNat_ofNat] at hdate htime
  refine ⟨_, exec_of_instrOut_eq (instrOut_encRaw f) s, hdate, htime, fun hnat => ?_⟩
  obtain ⟨hlo, hhi, hmonth, hday, hhour, hminute, hsecond⟩ := hnat.fitsBitFields
  have hdateFits := shifted_or3_lt (a := (f.year.toNat + 63556) % 65536) (b := f.month.toNat) (c := f.day.toNat)
    (j := 9) (k := 5) (by omega) (by omega) (by omega)
  have htimeFits := shifted_or3_lt (a := f.hour.toNat) (b := f.minute.toNat) (c := f.second.toNat / 2)
    (j := 11) (k := 5) (by omega) (by omega) (by omega)
  refine ⟨hdate.trans (Nat.mod_eq_of_lt hdateFits), htime.trans (Nat.mod_eq_of_lt htimeFits), ?_, ?_⟩
  · simp only [wordsOut, packDate_of_fits hlo hhi hmonth hday]
    omega
  · simp only [wordsOut, packTime_of_fits hhour hminute hsecond]
    omega

/-- Settles O27: ENC.RAW and ENC.LOOSE do not read `ms`, and ENC.STRICT only compares it with 999. -/
theorem millisecondsNeverReachAWord : Obligations.MillisecondsNeverReachAWord := by
  intro year month day hour minute second ms ms' s
  refine ⟨exec_congr (instrOut_encRaw_ms ⟨year, month, day, hour, minute, second, ms'⟩ ms) s,
    exec_congr (instrOut_encLoose_ms ⟨year, month, day, hour, minute, second, ms'⟩ ms) s,
    fun hms hms' => exec_congr
      (instrOut_encStrict_ms (f := ⟨year, month, day, hour, minute, second, ms⟩) hms hms') s, fun hms => ?_⟩
  have hnat : ¬ DateTimeFields.Natural ⟨year, month, day, hour, minute, second, ms⟩ := not_natural_of_ms hms
  exact ⟨_, exec_of_instrOut_eq (instrOut_encStrict_of_not_natural hnat) s, rfl⟩

/-- Settles O28: every accepted encode packs as ENC.RAW, whose lowest time field is the halved second's low bits. -/
theorem secondsAreTruncatedToEven : Obligations.SecondsAreTruncatedToEven := by
  intro f s i h
  refine ⟨_, exec_of_instrOut_eq ((instrOut_eq_encRaw h).trans (instrOut_encRaw f)) s, ?_⟩
  have hsec2 : ((packTime f.hour f.minute f.second).extractLsb' 0 5).toNat = f.second.toNat / 2 % 32 := by
    obtain ⟨-, -, hlow⟩ := timeWord_extract (packTime f.hour f.minute f.second)
    rw [hlow, packTime_mod_32]
  have hsec2_eq {second : Word} {v : BitVec 5} (hv : second.toNat / 2 % 32 = v.toNat) (hsecond : f.second = second) :
      (packTime f.hour f.minute f.second).extractLsb' 0 5 = v :=
    BitVec.eq_of_toNat_eq (hsec2.trans (hsecond ▸ hv))
  exact ⟨hsec2, fun hle => hsec2.trans (by omega), Or.rec (hsec2_eq rfl) (hsec2_eq rfl),
    Or.rec (hsec2_eq rfl) (hsec2_eq rfl)⟩

/-- Settles O29: 2108 and 1980 agree modulo 128, and 2108 is past both contracts' bound. -/
theorem yearBoundary : Obligations.YearBoundary := by
  intro month day hour minute second ms s
  have hwrap : instrOut (.encRaw ⟨2108, month, day, hour, minute, second, ms⟩)
      = instrOut (.encRaw ⟨1980, month, day, hour, minute, second, ms⟩) := by
    rw [instrOut_encRaw, instrOut_encRaw, packDate_congr_year (year := 1980) (year' := 2108) rfl]
  have hpast : ¬ (2108 : Word).toNat ≤ 2107 := by decide
  have hloose : ¬ DateTimeFields.LooselyValid ⟨2108, month, day, hour, minute, second, ms⟩ :=
    fun ⟨_, hhi, _⟩ => hpast hhi
  have hstrict : ¬ DateTimeFields.Natural ⟨2108, month, day, hour, minute, second, ms⟩ :=
    fun ⟨_, hhi, _⟩ => hpast hhi
  refine ⟨fun hnat => ?_, exec_congr hwrap s,
    ⟨_, exec_of_instrOut_eq (instrOut_encStrict_of_not_natural hstrict) s, rfl⟩,
    ⟨_, exec_of_instrOut_eq (instrOut_encLoose_of_not_looselyValid hloose) s, rfl⟩⟩
  have hnat' : DateTimeFields.Natural ⟨2107, month, day, hour, minute, second, ms⟩ := by
    obtain ⟨-, -, hrest⟩ := hnat
    exact ⟨(by decide : 1980 ≤ (2107 : Word).toNat), (by decide : (2107 : Word).toNat ≤ 2107), hrest⟩
  have hsame := hwrap.trans (instrOut_eq_encRaw (.inr (.inr ⟨rfl, hnat⟩))).symm
  obtain ⟨herr, hyoff⟩ := instrOut_encStrict_yearOffset (yoff := 0) hnat rfl
  obtain ⟨herr', hyoff'⟩ := instrOut_encStrict_yearOffset (yoff := 127) hnat' rfl
  exact ⟨_, _, _, exec_eq _ s, herr, hyoff, exec_eq _ s, herr', hyoff', exec_of_instrOut_eq hsame s, hyoff, rfl⟩

/-- Settles O20, each vector by evaluating the packer. -/
theorem aliasingConsequencesOfRawPacking : Obligations.AliasingConsequencesOfRawPacking :=
  fun s => ⟨exec_of_instrOut_eq (by decide) s, exec_of_instrOut_eq (by decide) s, exec_of_instrOut_eq (by decide) s,
    exec_of_instrOut_eq (by decide) s, exec_of_instrOut_eq (by decide) s, exec_of_instrOut_eq (by decide) s,
    exec_of_instrOut_eq (by decide) s, exec_of_instrOut_eq (by decide) s⟩

/-- Settles O26: the answer's outputs are `instrOut i`, whichever state it starts from. -/
theorem encodeIsDeterministic : Obligations.EncodeIsDeterministic :=
  fun _ s s' i _ => ⟨_, _, exec_eq i s, exec_eq i s', rfl⟩

end Sys2Proof.Machine
end

section
/-! PROOFS. The decode family and the round trips (41_decode.md). What DEC shows of a word pair fits the bit fields
(`unpackOut_fits`), so packing it again is the mixed-radix sum of the words' own digits and gives the pair back
(`packDate_unpackOut`, `packTime_unpackOut`). DEC's injectivity and the re-encoding laws follow. -/

namespace Sys2Proof.Machine

/-! ## What DEC shows of two words -/

/-- DEC's output vector, port by port, in the arithmetic of 41_decode.md R110. -/
theorem unpackOut_eq (date time : Word) :
    unpackOut date time =
      { err := 0, date_o := 0, time_o := 0, dt32_o := 0
        year_o := BitVec.ofNat 16 (1980 + date.toNat / 512)
        month_o := BitVec.ofNat 16 (date.toNat / 32 % 16)
        day_o := BitVec.ofNat 16 (date.toNat % 32)
        hour_o := BitVec.ofNat 16 (time.toNat / 2048)
        minute_o := BitVec.ofNat 16 (time.toNat / 32 % 64)
        second_o := BitVec.ofNat 16 (time.toNat % 32 * 2)
        ms_o := 0 } := by
  rw [unpackOut, yoffField_eq, monField_eq, dayField_eq, hourField_eq, minField_eq, sec2Field_eq]
  rfl

/-- The decoded date as numbers: each value fits its port. -/
theorem unpackOut_date_toNat (date time : Word) :
    (unpackOut date time).fields.year.toNat = 1980 + date.toNat / 512
      ∧ (unpackOut date time).fields.month.toNat = date.toNat / 32 % 16
      ∧ (unpackOut date time).fields.day.toNat = date.toNat % 32 := by
  have hdate := date.isLt
  simp only [Outputs.fields, unpackOut_eq, BitVec.toNat_ofNat]
  omega

/-- The decoded time as numbers: each value fits its port. -/
theorem unpackOut_time_toNat (date time : Word) :
    (unpackOut date time).fields.hour.toNat = time.toNat / 2048
      ∧ (unpackOut date time).fields.minute.toNat = time.toNat / 32 % 64
      ∧ (unpackOut date time).fields.second.toNat = time.toNat % 32 * 2 := by
  have htime := time.isLt
  simp only [Outputs.fields, unpackOut_eq, BitVec.toNat_ofNat]
  omega

/-- Decoded fields fit the bit fields they were cut from. -/
theorem unpackOut_fits (date time : Word) : (unpackOut date time).fields.FitsBitFields := by
  obtain ⟨hlo, hhi, hmonth, hday, hhour, hminute, hsecond, -, -⟩ := unpackOut_decodedRanges date time
  exact ⟨hlo, hhi, Nat.lt_succ_of_le hmonth, Nat.lt_succ_of_le hday, Nat.lt_succ_of_le hhour, Nat.lt_succ_of_le hminute,
    Nat.lt_succ_of_le (hsecond.trans (by decide))⟩

/-! ## Packing what DEC shows (41_decode.md R114) -/

/-- The decoded date packs to the date word: the sum of the word's own digits. -/
theorem packDate_unpackOut (date time : Word) :
    packDate (unpackOut date time).fields.year (unpackOut date time).fields.month (unpackOut date time).fields.day
      = date := by
  obtain ⟨hlo, hhi, hmonth, hday, -⟩ := unpackOut_fits date time
  obtain ⟨hyear_eq, hmonth_eq, hday_eq⟩ := unpackOut_date_toNat date time
  apply BitVec.eq_of_toNat_eq
  rw [packDate_of_fits hlo hhi hmonth hday, hyear_eq, hmonth_eq, hday_eq]
  omega

/-- The decoded time packs to the time word: the second is even, so halving it loses nothing. -/
theorem packTime_unpackOut (date time : Word) :
    packTime (unpackOut date time).fields.hour (unpackOut date time).fields.minute (unpackOut date time).fields.second
      = time := by
  obtain ⟨-, -, -, -, hhour, hminute, hsecond⟩ := unpackOut_fits date time
  obtain ⟨hhour_eq, hminute_eq, hsecond_eq⟩ := unpackOut_time_toNat date time
  apply BitVec.eq_of_toNat_eq
  rw [packTime_of_fits hhour hminute hsecond, hhour_eq, hminute_eq, hsecond_eq]
  omega

/-- ENC.RAW shows the words again. -/
theorem instrOut_encRaw_unpackOut (date time : Word) :
    instrOut (.encRaw (unpackOut date time).fields) = wordsOut date time :=
  congrArg₂ wordsOut (packDate_unpackOut date time) (packTime_unpackOut date time)

/-- The packer is a left inverse of the unpacker, so no two word pairs decode alike. -/
theorem unpackOut_injective {date time date' time' : Word} (h : unpackOut date' time' = unpackOut date time) :
    date' = date ∧ time' = time := by
  constructor
  · rw [← packDate_unpackOut date' time', h, packDate_unpackOut]
  · rw [← packTime_unpackOut date' time', h, packTime_unpackOut]

/-! ## The contracts on what DEC shows (41_decode.md R115) -/

/-- The strict contract on decoded fields, by the words' bit fields: the year is always in range. -/
theorem unpackOut_natural_iff_extract (date time : Word) :
    (unpackOut date time).fields.Natural ↔
      1 ≤ (date.extractLsb' 5 4).toNat ∧ (date.extractLsb' 5 4).toNat ≤ 12 ∧ 1 ≤ (date.extractLsb' 0 5).toNat
        ∧ (time.extractLsb' 11 5).toNat ≤ 23 ∧ (time.extractLsb' 5 6).toNat ≤ 59
        ∧ (time.extractLsb' 0 5).toNat ≤ 29 := by
  simp only [unpackOut_natural_iff, dateWordInRange, timeWordInRange, dateWord_extract, timeWord_extract,
    Bool.and_eq_true, decide_eq_true_eq]
  omega

/-- The loose contract on decoded fields, by the date word's bit fields. -/
theorem unpackOut_looselyValid_iff_extract (date time : Word) :
    (unpackOut date time).fields.LooselyValid ↔
      1 ≤ (date.extractLsb' 5 4).toNat ∧ 1 ≤ (date.extractLsb' 0 5).toNat := by
  obtain ⟨hlo, hhi, -⟩ := unpackOut_fits date time
  obtain ⟨-, hmonth, hday⟩ := unpackOut_date_toNat date time
  obtain ⟨-, hmonth', hday'⟩ := dateWord_extract date
  rw [hmonth', hday', ← hmonth, ← hday]
  exact ⟨fun ⟨_, _, h⟩ => h, fun h => ⟨hlo, hhi, h⟩⟩

/-- An encode that shows a pair's words where its contract holds and raises elsewhere does what R115 says. -/
theorem reencoded_out {o : Outputs} {date time : Word} {c : Prop} [Decidable c] (hpos : c → o = wordsOut date time)
    (hneg : ¬ c → o = invalidArgumentOut) :
    if c then o.err = 0 ∧ o.date_o = date ∧ o.time_o = time else o = ⟨1, 0, 0, 0, 0, 0, 0, 0, 0, 0, 0⟩ := by
  split
  case isTrue h => rw [hpos h]; exact ⟨rfl, rfl, rfl⟩
  case isFalse h => exact hneg h

/-! ## The obligations -/

/-- Settles O32: natural fields meet both contracts, so all three encodes drive one vector, and they fit their bit
fields, so DEC gives them back. -/
theorem fieldsSurviveTheRoundTrip : Obligations.FieldsSurviveTheRoundTrip := by
  intro f s s' hnat
  have hloosely : f.LooselyValid := by omega
  have hstrict := exec_congr (instrOut_eq_encRaw (.inr (.inr ⟨rfl, hnat⟩))) s
  have hloose := exec_congr (instrOut_eq_encRaw (.inr (.inl ⟨rfl, hloosely⟩))) s
  have hraw := exec_eq (.encRaw f) s
  obtain ⟨hyear, hmonth, hday, hhour, hminute, hsecond⟩ := unpackOut_givesBack_of_fits hnat.fitsBitFields
  exact ⟨_, _, hstrict.trans hraw, rfl, hloose.trans hraw, hraw, exec_eq (.dec _ _) s', rfl, hyear, hmonth, hday,
    hhour, hminute, hsecond, rfl⟩

/-- Settles O34: ENC.RAW does not read `ms`, and packing undoes unpacking. -/
theorem wordsSurviveTheRoundTrip : Obligations.WordsSurviveTheRoundTrip := by
  intro date time ms s s'
  have hraw := (instrOut_encRaw_ms (unpackOut date time).fields ms).trans (instrOut_encRaw_unpackOut date time)
  refine ⟨_, _, exec_eq (.dec date time) s, exec_of_instrOut_eq hraw s', rfl, rfl, rfl, fun date' time' t' h hout => ?_⟩
  rw [exec_next h] at hout
  exact unpackOut_injective hout

/-- Settles O35: each contract on the decoded fields is a condition on the pair's bit fields, and what it accepts is
packed as ENC.RAW packs it. -/
theorem reencodingADecodedPairUnderAContract : Obligations.ReencodingADecodedPairUnderAContract := by
  intro date time s s'
  have haccepted {i : Instr} (h : EncodesAccepted i (unpackOut date time).fields) : instrOut i = wordsOut date time :=
    (instrOut_eq_encRaw h).trans (instrOut_encRaw_unpackOut date time)
  refine ⟨_, _, _, exec_eq (.dec date time) s, exec_eq (.encStrict (unpackOut date time).fields) s',
    exec_eq (.encLoose (unpackOut date time).fields) s', ?_, ?_⟩
  · simp only [← unpackOut_natural_iff_extract]
    exact reencoded_out (fun h => haccepted (.inr (.inr ⟨rfl, h⟩))) instrOut_encStrict_of_not_natural
  · simp only [← unpackOut_looselyValid_iff_extract date time]
    exact reencoded_out (fun h => haccepted (.inr (.inl ⟨rfl, h⟩))) instrOut_encLoose_of_not_looselyValid

/-- Settles O30: DEC drives `unpackOut`, and no test stands before it. -/
theorem decUnpacksAnyWords : Obligations.DecUnpacksAnyWords :=
  fun date time s => exec_of_instrOut_eq (i := .dec date time) (unpackOut_eq date time) s

/-- Settles O31, by the ranges of the bit fields. -/
theorem decodedValuesStayInTheirRanges : Obligations.DecodedValuesStayInTheirRanges :=
  fun date time s => ⟨_, exec_eq (.dec date time) s, unpackOut_decodedRanges date time⟩

end Sys2Proof.Machine
end

section
/-! PROOFS. Errors and instances (60_exceptions.md). Each contract decides `err` alone
(`instrOut_encStrict_err_eq_one_iff`, `instrOut_encLoose_err_eq_one_iff`), and nothing else raises. A turn in an interleaving is one step of the instance that
takes it and leaves every other place as it was (`exists_stepInstance`), so the turns add up instance by instance. -/

namespace Sys2Proof.Machine

/-! ## What raises InvalidArgument (60_exceptions.md R133) -/

/-- An output vector without an error where the contract holds, and a raise elsewhere, shows `err` = 1 exactly where the
contract fails. -/
theorem err_eq_one_iff_not {o : Outputs} {contract : Prop} (hpos : contract → o.err = 0)
    (hneg : ¬ contract → o = invalidArgumentOut) : o.err = 1 ↔ ¬ contract := by
  constructor
  · intro herr hc
    simp [hpos hc] at herr
  · intro hc
    rw [hneg hc]
    rfl

theorem instrOut_encStrict_err_eq_one_iff (f : DateTimeFields) : (instrOut (.encStrict f)).err = 1 ↔ ¬ f.Natural :=
  err_eq_one_iff_not (instrOut_encStrict_err_eq_zero_iff f).mpr instrOut_encStrict_of_not_natural

theorem instrOut_encLoose_err_eq_one_iff (f : DateTimeFields) :
    (instrOut (.encLoose f)).err = 1 ↔ ¬ f.LooselyValid :=
  err_eq_one_iff_not (fun h => congrArg Outputs.err (instrOut_encLoose_of_looselyValid h))
    instrOut_encLoose_of_not_looselyValid

theorem instrOut_encRaw_err (f : DateTimeFields) : (instrOut (.encRaw f)).err = 0 := rfl

theorem instrOut_dec_err (date time : Word) : (instrOut (.dec date time)).err = 0 := rfl

/-- The table of R133, on the vector a transaction presents: one row per `op` code. -/
theorem instrOut_decode_err_eq_one_iff (v : Inputs) :
    (instrOut (decode v)).err = 1 ↔
      (v.op = 0b00#2 ∧ ¬ v.fields.Natural) ∨ (v.op = 0b01#2 ∧ ¬ v.fields.LooselyValid) := by
  rcases opCode_cases v.op with h | h | h | h
  · rw [decode_of_op_encStrict h, instrOut_encStrict_err_eq_one_iff]
    simp [h]
  · rw [decode_of_op_encLoose h, instrOut_encLoose_err_eq_one_iff]
    simp [h]
  · rw [decode_of_op_encRaw h, instrOut_encRaw_err]
    simp [h]
  · rw [decode_of_op_dec h, instrOut_dec_err]
    simp [h]

/-! ## Instances taking turns (60_exceptions.md R142) -/

/-- A turn answers: the instance at its place takes one step, every other place is as it was. -/
theorem exists_stepInstance (k : Nat) (sys : List State) :
    ∃ sys', stepInstance k sys = .next sys' ∧ sys'.length = sys.length
      ∧ (∀ s, sys[k]? = some s → ∃ t, step s = .next t ∧ sys'[k]? = some t)
      ∧ ∀ j, k ≠ j → sys'[j]? = sys[j]? := by
  refine ⟨_, stepInstance_eq k sys, List.length_modify .., fun s hs => ⟨_, step_eq s, ?_⟩, fun j hj => ?_⟩
  · rw [List.getElem?_modify_eq, hs]
    rfl
  · exact List.getElem?_modify_ne _ _ hj

/-- A run of an interleaving peels off its first turn. -/
theorem runInterleaved_cons_of_stepInstance {k : Nat} {sys sys' : List State} (h : stepInstance k sys = .next sys')
    (turns : List Nat) : runInterleaved (k :: turns) sys = runInterleaved turns sys' := by
  simp only [runInterleaved, h]

/-! ## The obligations -/

/-- Settles O11, by induction over the turns: the first turn is a step of the instance counted once more, or of another
instance (`exists_stepInstance`). -/
theorem instancesInAnyInterleavingShareNothing : Obligations.InstancesInAnyInterleavingShareNothing := by
  intro turns
  induction turns with
  | nil => exact fun sys => ⟨sys, rfl, rfl, fun _ s hs => ⟨s, hs, rfl⟩⟩
  | cons turn turns ih =>
    intro sys
    obtain ⟨mid, hturn, hlen, hself, hothers⟩ := exists_stepInstance turn sys
    obtain ⟨sys', hrun, hlen', hruns⟩ := ih mid
    refine ⟨sys', (runInterleaved_cons_of_stepInstance hturn turns).trans hrun, hlen'.trans hlen, fun k s hs => ?_⟩
    by_cases hk : turn = k
    · subst hk
      obtain ⟨s', hstep, hmid⟩ := hself s hs
      obtain ⟨t, ht, hown⟩ := hruns turn s' hmid
      rw [List.count_cons_self]
      exact ⟨t, ht, (Laws.run_succ_of_step core _ hstep).trans hown⟩
    · rw [List.count_cons_of_ne hk]
      exact hruns k s ((hothers k hk).trans hs)

/-- Settles O14: the step shows what its own vector raises (`instrOut_decode_err_eq_one_iff`). -/
theorem errIsRaisedExactlyWhenTheContractFails : Obligations.ErrIsRaisedExactlyWhenTheContractFails :=
  fun s => ⟨_, step_eq s, instrOut_decode_err_eq_one_iff s.present.inp⟩

/-- Settles O15: a failing contract drives `invalidArgumentOut`, and no field reaches it. -/
theorem invalidArgumentShowsErrAndNoData : Obligations.InvalidArgumentShowsErrAndNoData :=
  fun _ s => ⟨fun h => exec_of_instrOut_eq (instrOut_encStrict_of_not_natural h) s,
    fun h => exec_of_instrOut_eq (instrOut_encLoose_of_not_looselyValid h) s⟩

end Sys2Proof.Machine
end

section
/-! PROOFS. Reset (70_reset_and_hazards.md). A scheduled transaction answers with its own vector's outputs from reset as
from any other state (`step_scheduled`), so O10 rests on no reset value. What the output ports show before the first
transaction is the model's choice (notes/assumptions/4.md); O13 alone is about it. -/

namespace Sys2Proof.Machine

/-! ## What the output ports show at reset -/

theorem Outputs.zero_wordsZero : Outputs.zero.WordsZero := ⟨rfl, rfl, rfl⟩

theorem Outputs.zero_fieldsZero : Outputs.zero.FieldsZero := ⟨rfl, rfl, rfl, rfl, rfl, rfl, rfl⟩

@[simp] theorem State.reset_out : State.reset.out = Outputs.zero := rfl

/-! ## The obligations -/

/-- Settles O10: both steps are `step_scheduled`, whose answer names nothing of the state before but the rest of the
schedule. -/
theorem firstTransactionAfterResetIsLikeEveryOther : Obligations.FirstTransactionAfterResetIsLikeEveryOther :=
  fun s v rest rest' => ⟨_, _, step_scheduled State.reset v rest, step_scheduled s v rest', rfl, rfl⟩

/-- Settles O13: no port shows data at reset, so the words are their own concatenation (`dt32_of_wordsZero`) and there
are no decoded values to be in range. -/
theorem resetOutputVectorIsLegal : Obligations.ResetOutputVectorIsLegal := by
  unfold Obligations.ResetOutputVectorIsLegal
  rw [State.reset_out]
  exact ⟨dt32_of_wordsZero Outputs.zero_wordsZero, fun _ => ⟨Outputs.zero_wordsZero, Outputs.zero_fieldsZero⟩,
    .inl Outputs.zero_fieldsZero⟩

end Sys2Proof.Machine
end
